-- ==== Sys2Proof/Word.lean ====
section
/-!
DEFINITION. The plain data every other file speaks of: word widths, the three destination classes, and the form in which a
command packet or a port word is handed over.

Widths: 00_scope.md R8 and R11, 30_encoding.md R91.
-/

namespace Sys2Proof

/-- One byte of source memory. -/
abbrev Byte := BitVec 8

/-- A 16-bit value: destination offset, step, capacity, length, data word (R11). -/
abbrev Half := BitVec 16

/-- A 32-bit value: command word, byte total, budget, response (R11). -/
abbrev Word := BitVec 32

/-- A source address as a command gives it, 24 bits (R8, SRC_BITS). -/
abbrev SrcAddr := BitVec 24

/-- The source address of a segment, 25 bits: the high segment of a request in the last bank starts at 0x1000000 (R124). -/
abbrev SegAddr := BitVec 25

/-- "One of three distinct video memory address spaces reachable by the transfer engine" (20_memory.md R53). Which is which
the spec does not say. -/
inductive DestClass where
  | a
  | b
  | c
  deriving DecidableEq, Repr, Inhabited

/-- The command packet of format P (R91): four 32-bit words, handed over P0 first. -/
structure Packet where
  p0 : Word
  p1 : Word
  p2 : Word
  p3 : Word
  deriving DecidableEq, Repr, Inhabited

/-- What the machine takes in as an instruction: a command packet at the command port (R91), or a 32-bit or 16-bit word that
reaches the Register Port (the formats PORT32 and PORT16 of R96; log 11). -/
inductive Fetched where
  | packet (p : Packet)
  | port32 (w : Word)
  | port16 (w : Half)
  deriving DecidableEq, Repr, Inhabited

end Sys2Proof
end

