-- ==== Sys2Proof/Config.lean ====
section
/-!
DEFINITION. What an implementation fixes, and the values the spec leaves open.

The open parameters P1 to P6 of 92_eei_decisions.md are the opaque constant `Config.params` (log 15); the collaborators'
values at reset (70_reset_and_hazards.md R271), the bytes of source memory nothing has written and the words of slots
nothing has written are opaque constants as well. Nothing can be proved of an opaque constant's value, so a claim holds
whatever it is. Meanings take the parameters as an argument; only the arms' own definitions pass `Config.params`.
-/

namespace Sys2Proof

/-- P1: whether hardware transfers are enabled (00_scope.md R9). -/
inductive HwXfer where
  | enabled
  | disabled
  deriving DecidableEq, Repr, Inhabited

/-- P2: when the secondary coprocessor is resumed (R9). -/
inductive HaltScope where
  | perTrigger
  | perBatch
  deriving DecidableEq, Repr, Inhabited

/-- The transfer engine as `WaitIdle` sees it (20_memory.md R58): idle; busy, and idle after `polls + 1` more turns of its
own; or never idle again (60_exceptions.md R243, a hang). Log 3. -/
inductive Engine where
  | idle
  | busy (polls : Nat)
  | never
  deriving DecidableEq, Repr, Inhabited

/-- How the secondary coprocessor answers a `Halt` that finds its bus not taken (R62): it releases the bus while the engine
takes that many more turns of its own, and the call returns; or it never does, and the call never returns
(93_implementation_defined.md U13). Log 16. -/
inductive Release where
  | after (turns : Nat)
  | never
  deriving DecidableEq, Repr, Inhabited

/-- The build parameters of 00_scope.md R9 and the points the collaborators' contracts leave to the platform. -/
structure Params where
  /-- P1, HWXFER. -/
  hwXfer : HwXfer
  /-- P2, HALT_SCOPE. -/
  haltScope : HaltScope
  /-- P3: the trigger word of a generic transfer, "a total function of (cls, dst) and of nothing else" (R84). -/
  trigWord : DestClass → Half → Word
  /-- P4: the trigger word of a fill. -/
  fillTrigWord : Half → Word
  /-- P5: the trigger word of a copy. -/
  copyTrigWord : Half → Word
  /-- P6: where the platform maps CTRL; no rule reads it. -/
  ctrlAddr : Nat
  /-- P6: where the platform maps DATA; no rule reads it. -/
  dataAddr : Nat
  /-- R59: `GetStep` answers "the value of the last `SetStep` or of the last W2 the engine received, whichever the
  collaborator keeps"; true where it follows W2 (log 7). -/
  stepTracksW2 : Bool
  /-- The setting after a W2 whose 0x8F lane was spoilt by a carry: what the engine does with such a word is any value (U4);
  a function of the setting before and of the word (log 7). -/
  stepAfterSpoiltW2 : Half → Word → Half
  /-- R69: the order of the two bytes of a source word belongs to the source-memory collaborator; true where the byte at the
  lower address is the high one (log 10). -/
  srcHighByteFirst : Bool
  /-- Whether this implementation emits diagnostics: they are "optional" (R246, U16; log 6). -/
  diagnostics : Bool
  deriving Inhabited

/-- The parameters of the machine at hand, fixed for every run (R9: "none changes while commands run"). -/
opaque Config.params : Params

/-- DST_ADV, destination-offset units per word in a split: 1, kept as a named constant (92 D12, P7). -/
def Config.dstAdv : Nat := 1

/-- Word `w` (1 to 4) of slot `slot` while nothing has been stored there since the `gen`-th time the slots became
unspecified (10_state.md R34, U8; log 8). -/
opaque Config.unspecifiedSlotWord : (gen slot w : Nat) → Word

/-- A byte of source memory that nothing in the state lists (R271; log 9). -/
opaque Config.sourceByte : Nat → Byte

/-- The auto-increment setting at reset (R271; log 1). -/
opaque Config.resetAutoStep : Half

/-- Whether the secondary coprocessor's bus is taken at reset (R271; log 1). -/
opaque Config.resetBusTaken : Bool

/-- The engine at reset (R271; log 1). -/
opaque Config.resetEngine : Engine

/-- The engine's answers to the triggers after reset (R271; log 3). -/
opaque Config.resetAfterTrigger : List Engine

/-- The coprocessor's answers to the Halts after reset (R271; log 16). -/
opaque Config.resetReleases : List Release

/-- The external pending flag at reset (R271; log 1). -/
opaque Config.resetPending : Bool

end Sys2Proof
end

