-- ==== Sys2Proof/Syntax.lean ====
section
/-!
DEFINITION. The instructions: one constructor per row of spec/opcode_table.json.

The first twelve are the host commands of 30_encoding.md R96, with the operands of R102 in the order of that rule. The last
seven are the outward Register Port words of R81 to R87 (log 11).
-/

namespace Sys2Proof

inductive Instr where
  /-- INIT cap, budget (R150). -/
  | init (cap : Half) (budget : Word)
  /-- SETCFG autoflush, ignover (R151). -/
  | setcfg (autoflush ignover : Bool)
  /-- ENQ cls, src, dst, len, step (R152). -/
  | enq (cls : DestClass) (src : SrcAddr) (dst len step : Half)
  /-- CLRQ (R156). -/
  | clrq
  /-- QSIZE (R157). -/
  | qsize
  /-- QBYTES (R158). -/
  | qbytes
  /-- QOVF (R159). -/
  | qovf
  /-- FLUSH (R180). -/
  | flush
  /-- XFER cls, src, dst, len, step; step 0xFFFF is the sentinel "do not change" (R200). -/
  | xfer (cls : DestClass) (src : SrcAddr) (dst len step : Half)
  /-- FILL dst, len, val, step; step 0xFFFF is the sentinel (R204). -/
  | fill (dst len : Half) (val : Byte) (step : Half)
  /-- COPY srcoff, dst, len, step; step 0xFFFF is the sentinel (R206). -/
  | copy (srcoff dst len step : Half)
  /-- SWCOPY trig, src, len, step (R231). -/
  | swcopy (trig : Word) (src : SrcAddr) (len step : Half)
  /-- W1, the length word, on CTRL (R81). -/
  | w1Length (len : Half)
  /-- W2, the mid-address and step word, on CTRL (R82), as its two data lanes. -/
  | w2MidStep (mid step : Byte)
  /-- W3, the high and low address word, on CTRL (R83), as its two data lanes. -/
  | w3HiLo (hi : BitVec 7) (lo : Byte)
  /-- W4, the trigger word, on CTRL (R84): its constants are not in the source, so it is the whole word. -/
  | w4Trigger (word : Word)
  /-- The fill suffix 0x9780, on CTRL (R85). -/
  | fillSuffix
  /-- The copy suffix 0x97C0, on CTRL (R86). -/
  | copySuffix
  /-- The fill data word, on DATA (R87): the value in both bytes. -/
  | fillData (val : Byte)
  deriving DecidableEq, Repr, Inhabited

end Sys2Proof
end

