-- ==== Sys2Proof/WellFormed.lean ====
section
/-!
DEFINITION. When an instruction term stands for an encoding: the conditions of 30_encoding.md R95 and R98 that the operand
types do not carry already (CLS ≠ 3, the widths and the zero fields are carried by the types).
-/

namespace Sys2Proof

/-- R70, R98: a source address must be even; SRC[0] = 1 is a reserved operand value of ENQ, XFER and SWCOPY. -/
def srcEven (src : SrcAddr) : Bool := !src.getLsbD 0

/-- The word has W1's two constant bytes 0x94 and 0x93 (R81). -/
def isW1 (w : Word) : Bool := w &&& 0xFF00FF00#32 == 0x94009300#32

/-- The word has W2's two constant bytes 0x96 and 0x8F (R82, step ≤ 0xFF). -/
def isW2 (w : Word) : Bool := w &&& 0xFF00FF00#32 == 0x96008F00#32

/-- The word has W3's constant bits (R83). -/
def isW3 (w : Word) : Bool := w &&& 0xFF80FF00#32 == 0x97009500#32

/-- A 32-bit word that, met alone at the port, reads as none of W1, W2, W3 and so as a trigger word (log 12). -/
def loneTrigger (w : Word) : Bool := !isW1 w && !isW2 w && !isW3 w

/-- The well-formed instructions. -/
def Instr.wellFormed : Instr → Bool
  | .enq _ src _ _ _ => srcEven src
  | .xfer _ src _ _ _ => srcEven src
  | .swcopy _ src _ _ => srcEven src
  | .w4Trigger w => loneTrigger w
  | .init _ _ | .setcfg _ _ | .clrq | .qsize | .qbytes | .qovf | .flush => true
  | .fill _ _ _ _ | .copy _ _ _ _ => true
  | .w1Length _ | .w2MidStep _ _ | .w3HiLo _ _ | .fillSuffix | .copySuffix | .fillData _ => true

/-- The twelve host commands, as against the seven outward words (R96). -/
def Instr.isCommand : Instr → Bool
  | .init _ _ | .setcfg _ _ | .enq _ _ _ _ _ | .clrq | .qsize | .qbytes | .qovf | .flush => true
  | .xfer _ _ _ _ _ | .fill _ _ _ _ | .copy _ _ _ _ | .swcopy _ _ _ _ => true
  | .w1Length _ | .w2MidStep _ _ | .w3HiLo _ _ | .w4Trigger _ | .fillSuffix | .copySuffix | .fillData _ => false

end Sys2Proof
end

