-- ==== Sys2Proof/Decode.lean ====
section
/-!
DEFINITION. The decoder of 30_encoding.md, total and rejecting by name; then the encoder, written from the same tables; then
the opcode table's own match and mask of each row.

A packet is one of the twelve commands, well formed, or a BadCommand (R98). A port word is read by its constant bits (R81 to
R87); how a lone port word is told apart is log 12.
-/

namespace Sys2Proof

/-- Why a packet is a BadCommand (R97, R98), or a port word is none of the table's. -/
inductive DecodeError where
  /-- OP = 0x00 or OP = 0x0D .. 0xFF (R97). -/
  | reservedOpcode (op : Byte)
  /-- A field the command does not use, or P2[7:2], is not zero (R95, R98). For COPY this covers SRC[23:16] ≠ 0, for SETCFG
  AUX[31:2] ≠ 0. -/
  | fieldNotZero
  /-- CLS = 3 (R93, R98). -/
  | reservedClass
  /-- SRC[0] = 1 (R70, R98). -/
  | oddSource
  /-- A lone 16-bit port word that no row of the table lists. -/
  | unlistedPortWord (w : Half)
  deriving DecidableEq, Repr

/-! ### The fields of format P (R91) -/

def Packet.op (p : Packet) : Byte := p.p0.extractLsb' 24 8
def Packet.src (p : Packet) : SrcAddr := p.p0.extractLsb' 0 24
def Packet.dst (p : Packet) : Half := p.p1.extractLsb' 16 16
def Packet.len (p : Packet) : Half := p.p1.extractLsb' 0 16
def Packet.step (p : Packet) : Half := p.p2.extractLsb' 16 16
def Packet.val (p : Packet) : Byte := p.p2.extractLsb' 8 8
def Packet.zero6 (p : Packet) : BitVec 6 := p.p2.extractLsb' 2 6
def Packet.cls (p : Packet) : BitVec 2 := p.p2.extractLsb' 0 2
def Packet.aux (p : Packet) : Word := p.p3

/-- The packet as the 128-bit number of R91: bit 127 is P0[31], bit 0 is P3[0]. -/
def Packet.bits (p : Packet) : BitVec 128 := p.p0 ++ (p.p1 ++ (p.p2 ++ p.p3))

/-- The packet of a 128-bit number (R91). -/
def Packet.ofBits (v : BitVec 128) : Packet :=
  { p0 := v.extractLsb' 96 32, p1 := v.extractLsb' 64 32, p2 := v.extractLsb' 32 32, p3 := v.extractLsb' 0 32 }

/-- The class a CLS field names (R93); 3 is reserved. -/
def DestClass.ofField (c : BitVec 2) : Option DestClass :=
  match c.toNat with
  | 0 => some .a
  | 1 => some .b
  | 2 => some .c
  | _ => none

/-- CLS of a class (R93). -/
def DestClass.toField : DestClass → BitVec 2
  | .a => 0#2
  | .b => 1#2
  | .c => 2#2

/-- The bits that must be zero for a command using only some fields (R95): each argument is the field to be tested, or
nothing where the command uses it. P2[7:2] must always be zero (R91). -/
def Packet.zeroFields (p : Packet) (src : Option SrcAddr := some p.src) (dst : Option Half := some p.dst)
    (len : Option Half := some p.len) (step : Option Half := some p.step) (val : Option Byte := some p.val)
    (cls : Option (BitVec 2) := some p.cls) (aux : Option Word := some p.aux) : Bool :=
  p.zero6 == 0#6 && src.all (· == 0#24) && dst.all (· == 0#16) && len.all (· == 0#16) && step.all (· == 0#16) &&
    val.all (· == 0#8) && cls.all (· == 0#2) && aux.all (· == 0#32)

/-- A command with the zero-field check before it (R98). -/
def checked (ok : Bool) (i : Instr) : Except DecodeError Instr :=
  if ok then .ok i else .error .fieldNotZero

/-- The checks of a command with a class and a source address, ENQ and XFER (R98). -/
def withClass (p : Packet) (k : DestClass → Instr) : Except DecodeError Instr :=
  if !p.zeroFields (src := none) (dst := none) (len := none) (step := none) (cls := none) then .error .fieldNotZero
  else if p.src.getLsbD 0 then .error .oddSource
  else match DestClass.ofField p.cls with
    | some cls => .ok (k cls)
    | none => .error .reservedClass

/-- The command a packet stands for (R91 to R98). -/
def decodePacket (p : Packet) : Except DecodeError Instr :=
  match p.op.toNat with
  | 0x01 => checked (p.zeroFields (len := none) (aux := none)) (.init p.len p.aux)
  | 0x02 => checked (p.zeroFields (aux := some (p.aux &&& 0xFFFFFFFC#32))) (.setcfg (p.aux.getLsbD 0) (p.aux.getLsbD 1))
  | 0x03 => withClass p fun k => .enq k p.src p.dst p.len p.step
  | 0x04 => checked p.zeroFields .clrq
  | 0x05 => checked p.zeroFields .qsize
  | 0x06 => checked p.zeroFields .qbytes
  | 0x07 => checked p.zeroFields .qovf
  | 0x08 => checked p.zeroFields .flush
  | 0x09 => withClass p fun k => .xfer k p.src p.dst p.len p.step
  | 0x0A => checked (p.zeroFields (dst := none) (len := none) (step := none) (val := none)) (.fill p.dst p.len p.val p.step)
  | 0x0B => checked (p.zeroFields (src := some (p.src &&& 0xFF0000#24)) (dst := none) (len := none) (step := none))
      (.copy (p.src.extractLsb' 0 16) p.dst p.len p.step)
  | 0x0C =>
      if !p.zeroFields (src := none) (len := none) (step := none) (aux := none) then .error .fieldNotZero
      else if p.src.getLsbD 0 then .error .oddSource
      else .ok (.swcopy p.aux p.src p.len p.step)
  | _ => .error (.reservedOpcode p.op)

/-- The outward word that a lone 32-bit word on CTRL is (R81 to R84): W1, W2 and W3 by their constant bits, and a word with
none of them is a trigger word (log 12). -/
def decodePort32 (w : Word) : Instr :=
  if w &&& 0xFF00FF00#32 = 0x94009300#32 then .w1Length (w.extractLsb' 16 8 ++ w.extractLsb' 0 8)
  else if w &&& 0xFF00FF00#32 = 0x96008F00#32 then .w2MidStep (w.extractLsb' 16 8) (w.extractLsb' 0 8)
  else if w &&& 0xFF80FF00#32 = 0x97009500#32 then .w3HiLo (w.extractLsb' 16 7) (w.extractLsb' 0 8)
  else .w4Trigger w

/-- The outward word that a lone 16-bit word is (R85 to R87): one of the two suffixes, or a data word with the fill value in
both bytes. -/
def decodePort16 (w : Half) : Except DecodeError Instr :=
  if w = 0x9780#16 then .ok .fillSuffix
  else if w = 0x97C0#16 then .ok .copySuffix
  else if w.extractLsb' 8 8 = w.extractLsb' 0 8 then .ok (.fillData (w.extractLsb' 8 8))
  else .error (.unlistedPortWord w)

/-- The instruction that what was handed over stands for. -/
def decode : Fetched → Except DecodeError Instr
  | .packet p => decodePacket p
  | .port32 w => .ok (decodePort32 w)
  | .port16 w => decodePort16 w

/-! ### The encoder -/

/-- A packet of format P from its fields, P2[7:2] zero (R91). -/
def Packet.pack (op : Byte) (src : SrcAddr := 0#24) (dst : Half := 0#16) (len : Half := 0#16) (step : Half := 0#16)
    (val : Byte := 0#8) (cls : BitVec 2 := 0#2) (aux : Word := 0#32) : Fetched :=
  .packet { p0 := op ++ src, p1 := dst ++ len, p2 := step ++ (val ++ (0#6 ++ cls)), p3 := aux }

/-- The encoding of an instruction: the packet of R95, or the port word of R81 to R87 as the table draws it. -/
def encode : Instr → Fetched
  | .init cap budget => Packet.pack 0x01#8 (len := cap) (aux := budget)
  | .setcfg autoflush ignover =>
      Packet.pack 0x02#8 (aux := 0#30 ++ BitVec.ofBool ignover ++ BitVec.ofBool autoflush)
  | .enq cls src dst len step => Packet.pack 0x03#8 (cls := cls.toField) (src := src) (dst := dst) (len := len) (step := step)
  | .clrq => Packet.pack 0x04#8
  | .qsize => Packet.pack 0x05#8
  | .qbytes => Packet.pack 0x06#8
  | .qovf => Packet.pack 0x07#8
  | .flush => Packet.pack 0x08#8
  | .xfer cls src dst len step => Packet.pack 0x09#8 (cls := cls.toField) (src := src) (dst := dst) (len := len) (step := step)
  | .fill dst len val step => Packet.pack 0x0A#8 (dst := dst) (len := len) (val := val) (step := step)
  | .copy srcoff dst len step => Packet.pack 0x0B#8 (src := 0#8 ++ srcoff) (dst := dst) (len := len) (step := step)
  | .swcopy trig src len step => Packet.pack 0x0C#8 (aux := trig) (src := src) (len := len) (step := step)
  | .w1Length len => .port32 (0x94#8 ++ len.extractLsb' 8 8 ++ 0x93#8 ++ len.extractLsb' 0 8)
  | .w2MidStep mid step => .port32 (0x96#8 ++ mid ++ 0x8F#8 ++ step)
  | .w3HiLo hi lo => .port32 (0x97#8 ++ 0#1 ++ hi ++ 0x95#8 ++ lo)
  | .w4Trigger w => .port32 w
  | .fillSuffix => .port16 0x9780#16
  | .copySuffix => .port16 0x97C0#16
  | .fillData val => .port16 (val ++ val)

/-! ### The rows of spec/opcode_table.json -/

/-- A row of the table: how many bits it gives the instruction, and its match and mask (R96). -/
structure TableRow where
  bits : Nat
  value : Nat
  mask : Nat
  deriving DecidableEq, Repr

/-- The row of each instruction, its numbers copied from the table. -/
def Instr.tableRow : Instr → TableRow
  | .init _ _ => ⟨128, 0x01000000000000000000000000000000, 0xFFFFFFFFFFFF0000FFFFFFFF00000000⟩
  | .setcfg _ _ => ⟨128, 0x02000000000000000000000000000000, 0xFFFFFFFFFFFFFFFFFFFFFFFFFFFFFFFC⟩
  | .enq _ _ _ _ _ => ⟨128, 0x03000000000000000000000000000000, 0xFF000001000000000000FFFCFFFFFFFF⟩
  | .clrq => ⟨128, 0x04000000000000000000000000000000, 0xFFFFFFFFFFFFFFFFFFFFFFFFFFFFFFFF⟩
  | .qsize => ⟨128, 0x05000000000000000000000000000000, 0xFFFFFFFFFFFFFFFFFFFFFFFFFFFFFFFF⟩
  | .qbytes => ⟨128, 0x06000000000000000000000000000000, 0xFFFFFFFFFFFFFFFFFFFFFFFFFFFFFFFF⟩
  | .qovf => ⟨128, 0x07000000000000000000000000000000, 0xFFFFFFFFFFFFFFFFFFFFFFFFFFFFFFFF⟩
  | .flush => ⟨128, 0x08000000000000000000000000000000, 0xFFFFFFFFFFFFFFFFFFFFFFFFFFFFFFFF⟩
  | .xfer _ _ _ _ _ => ⟨128, 0x09000000000000000000000000000000, 0xFF000001000000000000FFFCFFFFFFFF⟩
  | .fill _ _ _ _ => ⟨128, 0x0A000000000000000000000000000000, 0xFFFFFFFF00000000000000FFFFFFFFFF⟩
  | .copy _ _ _ _ => ⟨128, 0x0B000000000000000000000000000000, 0xFFFF0000000000000000FFFFFFFFFFFF⟩
  | .swcopy _ _ _ _ => ⟨128, 0x0C000000000000000000000000000000, 0xFF000001FFFF00000000FFFF00000000⟩
  | .w1Length _ => ⟨32, 0x94009300, 0xFF00FF00⟩
  | .w2MidStep _ _ => ⟨32, 0x96008F00, 0xFF00FF00⟩
  | .w3HiLo _ _ => ⟨32, 0x97009500, 0xFF80FF00⟩
  | .w4Trigger _ => ⟨32, 0x00000000, 0x00000000⟩
  | .fillSuffix => ⟨16, 0x9780, 0xFFFF⟩
  | .copySuffix => ⟨16, 0x97C0, 0xFFFF⟩
  | .fillData _ => ⟨16, 0x0000, 0x0000⟩

/-- What was handed over, as the table numbers its bits: a packet is the 128-bit number of R91. -/
def Fetched.number : Fetched → Nat
  | .packet p => p.bits.toNat
  | .port32 w => w.toNat
  | .port16 w => w.toNat

/-- The width of what was handed over, in bits. -/
def Fetched.width : Fetched → Nat
  | .packet _ => 128
  | .port32 _ => 32
  | .port16 _ => 16

/-- What is handed over when the table's bits of an instruction are `w`: a 16-bit or 32-bit row is a port word, any other
width a packet (log 20). -/
def Fetched.ofTable (nbits w : Nat) : Fetched :=
  if nbits = 16 then .port16 (BitVec.ofNat 16 w)
  else if nbits = 32 then .port32 (BitVec.ofNat 32 w)
  else .packet (Packet.ofBits (BitVec.ofNat 128 w))

/-- The instruction the decoder reads from an instruction whose bits are `w`, numbered as spec/opcode_table.json numbers
them (log 20). -/
def decodeTableWord (nbits w : Nat) : Option Instr :=
  match decode (Fetched.ofTable nbits w) with
  | .ok i => some i
  | .error _ => none

end Sys2Proof
end

