-- ==== Sys2Proof/Machine/State.lean ====
section
/-!
DEFINITION. The machine's state, the ways a step can stop, and reset.

10_state.md R22 names the architectural state exactly: Q, CAP, QCOUNT, OVFIDX, QBYTES, BUDGET, CFG, RESP. R36 asks that what
BTQC depends on but does not own be part of an environment: it is the fields `env` and `srcMem`, which every claim quantifies
over (log 1). The other fields are the model's own: the hold of R58 and U13 (`held`), what the agents outside will still do
(`inputs`, log 13), the trace of 20_memory.md R68 (`trace`, log 5), and the count behind the free slot values (`slotGen`,
log 8).
-/

namespace Sys2Proof.Machine

open Sys2Proof

/-- One descriptor as it is stored: "four pre-packed 32-bit command words" (R23, R32). -/
structure Descriptor where
  w1 : Word
  w2 : Word
  w3 : Word
  w4 : Word
  deriving DecidableEq, Repr, Inhabited

/-- The queue store: the slots that hold a stored descriptor, by index, indexes strictly rising (R23). -/
abbrev Slots := List (Nat × Descriptor)

/-- Source memory: the bytes that differ from what an unlisted byte reads as, addresses strictly rising (R51, log 9). -/
abbrev Memory := List Host.Cell

/-- A part of a request that lies in one bank, "low segment / high segment" (00_scope.md R14). -/
structure Segment where
  src : SegAddr
  dst : Half
  len : Half
  deriving DecidableEq, Repr, Inhabited

/-- The diagnostics BTQC emits (60_exceptions.md R246). -/
inductive Diag where
  /-- Every QueueFull. -/
  | alertQueueFull
  /-- The store that writes OVFIDX: "current total and configured budget". -/
  | warnBudget (total budget : Word)
  /-- Every BadCommand. -/
  | alertBadCommand
  deriving DecidableEq, Repr

/-- The events of the trace (20_memory.md R68). -/
inductive Event where
  /-- One 32-bit write to CTRL. -/
  | cw32 (v : Word)
  /-- One 16-bit write to CTRL. -/
  | cw16 (v : Half)
  /-- One 16-bit write to DATA. -/
  | dw16 (v : Half)
  /-- `WaitIdle()` returning. -/
  | wait
  /-- `GetStep()` with its answer. -/
  | getStep (v : Half)
  /-- `SetStep(v)`. -/
  | setStep (v : Half)
  /-- `BusTaken()` with its answer. -/
  | taken (b : Bool)
  /-- `Halt()`: the signal to release the bus is given; that the call returned is no event of its own (log 16). -/
  | halt
  | resume
  /-- A 16-bit read of source memory with its answer. -/
  | srcRd (a : SrcAddr) (v : Half)
  /-- `SignalPending()`. -/
  | pend
  /-- An advisory diagnostic. -/
  | diag (d : Diag)
  /-- The final write of RESP. -/
  | resp (v : Word)
  deriving DecidableEq, Repr

/-- Where a command is held: what is left of one in `WaitIdle` (R58), or that it is in a `Halt` that never returns (U13). -/
inductive Held where
  /-- The whole command: it is held at its first `WaitIdle`, nothing of it has happened. -/
  | start (i : Instr)
  /-- The low segment of an XFER whose high segment has been issued (R200, R201). -/
  | lowSegment (cls : DestClass) (low : Segment) (step : Half)
  /-- A `Halt` whose bus is never released: nothing lifts it, so nothing of the command is left (log 16). -/
  | inHalt
  deriving DecidableEq, Repr

/-- What an agent outside BTQC does next (60_exceptions.md R256; log 13). -/
inductive Input where
  /-- The host hands over a command packet (R67), or a word reaches the Register Port by the host's own means (R278, log 11). -/
  | fetch (f : Fetched)
  /-- The engine is bound: what it is now, and what it will be after each coming trigger (R276 "bind collaborators"). -/
  | engine (now : Engine) (afterTrigger : List Engine)
  /-- The host sets the auto-increment "through its own means" (R202 case 1). -/
  | setStep (v : Half)
  /-- The secondary coprocessor is bound: how it answers each coming Halt (R276). -/
  | release (answers : List Release)
  /-- Somebody takes or gives back the secondary coprocessor's bus (R61 "by anyone"). -/
  | busRequest (taken : Bool)
  /-- Source data is changed (R283). -/
  | srcWrite (a : SrcAddr) (b : Byte)
  /-- The vertical-blank handler consumes the pending-work flag (R65). -/
  | consumePending
  /-- Hardware reset (R270, log 17). -/
  | reset
  deriving DecidableEq, Repr

/-- The collaborators as their contracts show them (R36, R58 to R65). -/
structure Env where
  /-- The auto-increment setting (R59, R60). -/
  autoStep : Half
  /-- The secondary coprocessor has been told to release the bus and has not been resumed (R61). -/
  busTaken : Bool
  /-- Whether the transfer engine is idle (R58). -/
  engine : Engine
  /-- What the engine is after each coming trigger, the next first; idle once the list is used up (log 3). -/
  afterTrigger : List Engine
  /-- How the coprocessor answers each coming Halt that finds its bus not taken, the next first; at once when the list is used
  up (R62, U13; log 16). -/
  releases : List Release
  /-- The external scheduler's pending-work flag (R65, log 19). -/
  pending : Bool
  /-- The model's own: BTQC has begun a block transfer, writing its length word, with the engine busy, so that the premise of
  70_reset_and_hazards.md R279 (D26) is broken (log 22). Nothing reads it. -/
  overrun : Bool
  deriving DecidableEq, Repr

/-- The state of the machine. -/
structure State where
  /-- CAP (R24). -/
  cap : Half
  /-- QCOUNT (R25). -/
  qcount : Half
  /-- OVFIDX (R26). -/
  ovfidx : Half
  /-- QBYTES (R27). -/
  qbytes : Word
  /-- BUDGET (R28). -/
  budget : Word
  /-- CFG: bit 0 AUTOFLUSH, bit 1 IGNOVER (R30). -/
  cfg : BitVec 2
  /-- RESP (R31). -/
  resp : Word
  /-- Q (R23). -/
  slots : Slots
  /-- How often all slots have become unspecified (the model's own, log 8). -/
  slotGen : Nat
  /-- The command held in `WaitIdle`, or in a `Halt` that never returns, if one is (R58, U13; log 2, log 16). -/
  held : Option Held
  /-- What the agents outside will still do, the next first (log 13). -/
  inputs : List Input
  /-- The events so far, oldest first (R68, log 5). -/
  trace : List Event
  /-- The collaborators (R36, log 1). -/
  env : Env
  /-- Source memory (R51, log 9). -/
  srcMem : Memory
  deriving DecidableEq, Repr

/-- Why the machine could stop with a fault. There is no such reason: "BTQC has no traps" (60_exceptions.md), a condition is a
next state (R250), and an engine that never becomes idle is a hold and "not a fault" (R243). Log 21. -/
inductive Fault where
  deriving DecidableEq, Repr

/-- Why a step has no meaning to give. -/
inductive Refusal where
  /-- Raised by exec alone, for an instruction that has no meaning yet. No arm answers it now. Safe. -/
  | notModelled (mnemonic : String)
  /-- Raised by the step where a lone 16-bit word reached the Register Port that no row of the opcode table lists (log 12).
  Safe: the machine stops where the port would take the word. -/
  | unlistedPortWord (w : Half)
  deriving DecidableEq, Repr

/-- Right after hardware reset (70_reset_and_hazards.md R270): every register 0, every slot unspecified, the sequencer idle. The
collaborators are what they are (R271). Nothing waits at the command port (log 14). -/
def State.reset : State where
  cap := 0#16
  qcount := 0#16
  ovfidx := 0#16
  qbytes := 0#32
  budget := 0#32
  cfg := 0#2
  resp := 0#32
  slots := []
  slotGen := 0
  held := none
  inputs := []
  trace := []
  env :=
    { autoStep := Config.resetAutoStep
      busTaken := Config.resetBusTaken
      engine := Config.resetEngine
      afterTrigger := Config.resetAfterTrigger
      releases := Config.resetReleases
      pending := Config.resetPending
      overrun := false }
  srcMem := []

end Sys2Proof.Machine
end

