-- ==== Sys2Proof/Machine/Operands.lean ====
section
/-!
DEFINITION. The pure functions on operands: the packers and unpackers of 30_encoding.md, the bank-boundary decomposer and
the fill adjustment of 40_datapath_units.md. None reads state.
-/

namespace Sys2Proof.Machine

open Sys2Proof

/-! ### Outward words (R81 to R87) -/

/-- W1, the length word (R81). -/
def packLen (len : Half) : Word :=
  0x94009300#32 ||| ((len.setWidth 32 ||| (len.setWidth 32 <<< 8)) &&& 0x00FF00FF#32)

/-- W2, the mid-address and step word: the step is added, so a step above 0xFF carries (R82). -/
def packMid (src : SegAddr) (step : Half) : Word :=
  (0x96008F00#32 ||| ((src.setWidth 32 <<< 7) &&& 0x00FF0000#32)) + step.setWidth 32

/-- W3, the high and low address word (R83). -/
def packHiLo (src : SegAddr) : Word :=
  0x97009500#32 ||| ((src.setWidth 32 >>> 1) &&& 0x007F00FF#32)

/-- The fill suffix (R85). -/
def fillSuffixWord : Half := 0x9780#16

/-- The copy suffix (R86). -/
def copySuffixWord : Half := 0x97C0#16

/-- The fill value "replicated into both bytes of the data word" (R87). -/
def fillData (val : Byte) : Half := (val.setWidth 16 <<< 8) ||| val.setWidth 16

/-- `PackDesc`, the four words of one descriptor (R125, R90). -/
def packDesc (p : Params) (cls : DestClass) (src : SegAddr) (dst len step : Half) : Descriptor :=
  { w1 := packLen len, w2 := packMid src step, w3 := packHiLo src, w4 := p.trigWord cls dst }

/-! ### Unpacking (R89) -/

/-- The length in a W1. -/
def unpackLen (w1 : Word) : Half :=
  ((w1.extractLsb' 16 8).setWidth 16 <<< 8) ||| (w1.extractLsb' 0 8).setWidth 16

/-- The source address in a W2 and a W3. -/
def unpackSrc (w2 w3 : Word) : SrcAddr :=
  ((w3.extractLsb' 16 7).setWidth 24 <<< 17) ||| ((w2.extractLsb' 16 8).setWidth 24 <<< 9) |||
    ((w3.extractLsb' 0 8).setWidth 24 <<< 1)

/-- The step in a W2 (D33). -/
def unpackStep (w2 : Word) : Half := (w2.extractLsb' 0 8).setWidth 16

/-- A W2 whose 0x8F select byte stands as packed, so that its low byte is a step (R82, R88). -/
def stepLaneIntact (w2 : Word) : Bool := w2.extractLsb' 8 8 == 0x8F#8

/-! ### Source addresses -/

/-- BANK_BYTES, the size of a bank (R8, R51). -/
def bankBytes : Nat := 0x20000

/-- The offset of an address in its bank, s[16:0] (R51). -/
def bankOffset (src : SrcAddr) : Nat := (src.extractLsb' 0 17).toNat

/-- SRC[0] = 1, a reserved operand value (R70). -/
def srcOdd (src : SrcAddr) : Bool := src.getLsbD 0

/-- The address of a COPY offset: `zext_25(srcoff) << 1` (R206). -/
def copyAddr (srcoff : Half) : SegAddr := srcoff.setWidth 25 <<< 1

/-- The step operand that means "do not change" for XFER, FILL and COPY (R92, D14). -/
def stepSentinel : Half := 0xFFFF#16

/-! ### The bank-boundary decomposer (R120) -/

/-- What `Decompose` answers. -/
inductive Decomposed where
  | whole (seg : Segment)
  | split (low high : Segment)
  deriving DecidableEq, Repr

/-- Bytes from `src` to the next bank boundary, remB. -/
def bytesToBoundary (src : SrcAddr) : Nat := bankBytes - bankOffset src

/-- The same in words, remW. -/
def wordsToBoundary (src : SrcAddr) : Nat := bytesToBoundary src / 2

/-- `Decompose` (R120): cut a request that crosses a bank boundary at the boundary. -/
def decompose (src : SrcAddr) (dst len : Half) : Decomposed :=
  if wordsToBoundary src < len.toNat then
    let lowLen := BitVec.ofNat 16 (wordsToBoundary src)
    .split
      { src := src.setWidth 25, dst := dst, len := lowLen }
      { src := src.setWidth 25 + BitVec.ofNat 25 (bytesToBoundary src),
        dst := dst + BitVec.ofNat 16 (Config.dstAdv * lowLen.toNat),
        len := len - lowLen }
  else .whole { src := src.setWidth 25, dst := dst, len := len }

/-- `FillAdjust` (R133): the fill length the engine is given. -/
def fillAdjust (dst len : Half) : Half :=
  if len = 0#16 then 0#16
  else if dst.getLsbD 0 then (if len < 3#16 then 1#16 else len - 2#16)
  else (if len < 2#16 then 1#16 else len - 1#16)

end Sys2Proof.Machine
end

