-- ==== Sys2Proof/Machine/Flags.lean ====
section
/-!
DEFINITION. The bits that play the part of flags (10_state.md R37): the two policy bits of CFG, "overflow recorded", and the
accepted bit of RESP; and the predicates ENQ and FLUSH compute from them.
-/

namespace Sys2Proof.Machine

open Sys2Proof

/-- CFG.AUTOFLUSH (R30). -/
def State.autoflush (s : State) : Bool := s.cfg.getLsbD 0

/-- CFG.IGNOVER (R30). -/
def State.ignover (s : State) : Bool := s.cfg.getLsbD 1

/-- CFG from SETCFG's two flags (R94, R151). -/
def cfgOf (autoflush ignover : Bool) : BitVec 2 := BitVec.ofBool ignover ++ BitVec.ofBool autoflush

/-- An overflow index is recorded: OVFIDX ≠ 0, "the value 0 is the only encoding of 'not yet reached'" (R26, D9). -/
def State.overflowRecorded (s : State) : Bool := s.ovfidx != 0#16

/-- "A nonzero per-frame byte budget is configured and the running total now exceeds it", strictly (R154). -/
def State.overBudget (s : State) : Bool := s.budget != 0#32 && s.budget < s.qbytes

/-- "The queue is already at capacity" (R152). -/
def State.queueFull (s : State) : Bool := s.cap.toNat ≤ s.qcount.toNat

/-- There is no room for two descriptors (R152, D10). -/
def State.noRoomForTwo (s : State) : Bool := s.cap.toNat < s.qcount.toNat + 2

/-- RESP's accepted bit (R100). -/
def acceptedResp (r : Bool) : Word := if r then 1#32 else 0#32

/-- replayCount (R181). -/
def State.replayCount (s : State) : Half :=
  if s.overflowRecorded && s.ignover then s.ovfidx else s.qcount

end Sys2Proof.Machine
end

