-- ==== Sys2Proof/Machine/Ops.lean ====
section
/-!
DEFINITION. The named operations the meanings share: source memory and the queue store, the events and the collaborators of
20_memory.md, conditions (60_exceptions.md: what an exception is here), the wait, the halt, and the bus-hazard-safe trigger
sequencer of 40_datapath_units.md. `WaitIdle` and `Halt` may not return, so they, and what is built on them, take the rest of
the command as an argument.
-/

namespace Sys2Proof.Machine

open Sys2Proof

/-! ### Source memory (R51, R52; log 9) -/

/-- One byte of source memory. -/
def Memory.read (m : Memory) (a : Nat) : Byte :=
  match m with
  | [] => Config.sourceByte a
  | (k, v) :: rest => if k = a then v else Memory.read rest a

/-- The list with `b` at `a` in front, unless it is what an unlisted `a` reads as. -/
def Memory.list (a : Nat) (b : Byte) (rest : Memory) : Memory :=
  if b = Config.sourceByte a then rest else (a, b) :: rest

/-- Change one byte of source memory, in canonical form. BTQC never does (R52); an agent outside may (R283). -/
def Memory.write (m : Memory) (a : Nat) (b : Byte) : Memory :=
  match m with
  | [] => Memory.list a b []
  | (k, v) :: rest =>
    if a < k then Memory.list a b ((k, v) :: rest)
    else if a = k then Memory.list a b rest
    else (k, v) :: Memory.write rest a b

/-- The keys of a list rise strictly and are at least `lo`. -/
def risingFrom {α : Type} (lo : Nat) : List (Nat × α) → Bool
  | [] => true
  | (k, _) :: rest => lo ≤ k && risingFrom (k + 1) rest

/-- Source memory is in canonical form: addresses rise strictly, lie in 24 bits, and no entry is what an unlisted address
reads as. -/
def Memory.wf (m : Memory) : Bool :=
  risingFrom 0 m && m.all fun c => c.1 < 2 ^ 24 && c.2 != Config.sourceByte c.1

/-- The 16-bit word at an even source address (R52); the order of its bytes is the collaborator's (R69, log 10). -/
def srcWord (p : Params) (m : Memory) (a : SrcAddr) : Half :=
  let first := Memory.read m a.toNat
  let second := Memory.read m (a.toNat + 1)
  if p.srcHighByteFirst then first ++ second else second ++ first

/-! ### The queue store (R23) -/

/-- A slot nothing has been stored in since the slots last became unspecified (R34, log 8). -/
def unspecifiedSlot (gen i : Nat) : Descriptor :=
  { w1 := Config.unspecifiedSlotWord gen i 1, w2 := Config.unspecifiedSlotWord gen i 2,
    w3 := Config.unspecifiedSlotWord gen i 3, w4 := Config.unspecifiedSlotWord gen i 4 }

/-- Slot `i` of a store. -/
def Slots.read (gen : Nat) (q : Slots) (i : Nat) : Descriptor :=
  match q with
  | [] => unspecifiedSlot gen i
  | (k, d) :: rest => if k = i then d else Slots.read gen rest i

/-- Store a descriptor in slot `i`. -/
def Slots.write (q : Slots) (i : Nat) (d : Descriptor) : Slots :=
  match q with
  | [] => [(i, d)]
  | (k, e) :: rest =>
    if i < k then (i, d) :: (k, e) :: rest
    else if i = k then (i, d) :: rest
    else (k, e) :: Slots.write rest i d

/-- Q[i]. -/
def State.slot (s : State) (i : Nat) : Descriptor := Slots.read s.slotGen s.slots i

/-- Q[i] <- d. -/
def State.storeSlot (s : State) (i : Nat) (d : Descriptor) : State := { s with slots := Slots.write s.slots i d }

/-- All slots become unspecified (R270, and after INIT: R150, U8; log 8). -/
def State.forgetSlots (s : State) : State := { s with slots := [], slotGen := s.slotGen + 1 }

/-! ### Events and collaborators (R58 to R68) -/

/-- Append one event to the trace (R68, R73). -/
def State.emit (s : State) (e : Event) : State := { s with trace := s.trace ++ [e] }

/-- Replace the collaborators' part. -/
def State.withEnv (s : State) (env : Env) : State := { s with env := env }

/-- `PortWrite32(CTRL, v)` (R57). -/
def writeCtrl32 (v : Word) (s : State) : State := s.emit (.cw32 v)

/-- `PortWrite16(CTRL, v)`. -/
def writeCtrl16 (v : Half) (s : State) : State := s.emit (.cw16 v)

/-- `PortWrite16(DATA, v)`. -/
def writeData (v : Half) (s : State) : State := s.emit (.dw16 v)

/-- The auto-increment setting after a W2 reached the engine (R59; log 7). -/
def stepAfterW2 (p : Params) (w2 : Word) (old : Half) : Half :=
  if p.stepTracksW2 then (if stepLaneIntact w2 then unpackStep w2 else p.stepAfterSpoiltW2 old w2) else old

/-- Write the length word that begins a block transfer. "The coprocessor can only safely start a new block transfer once any
previous one has finished" (R279): `overrun` records that one had not (log 22). -/
def writeLength (w1 : Word) (s : State) : State :=
  (writeCtrl32 w1 s).withEnv { s.env with overrun := s.env.overrun || s.env.engine != .idle }

/-- Write a W2: a 32-bit write to CTRL that the collaborator may take the step from (R59, R88). -/
def writeMid (p : Params) (w2 : Word) (s : State) : State :=
  (writeCtrl32 w2 s).withEnv { s.env with autoStep := stepAfterW2 p w2 s.env.autoStep }

/-- What the engine is after the next trigger (log 3). -/
def Env.afterNextTrigger (e : Env) : Engine := e.afterTrigger.headD .idle

/-- Write a trigger word: "writing it starts the engine" (R14, R84), which runs on asynchronously (R256). -/
def writeTrigger (w : Word) (s : State) : State :=
  (writeCtrl32 w s).withEnv { s.env with engine := s.env.afterNextTrigger, afterTrigger := s.env.afterTrigger.tail }

/-- `SetStep(v)` (R60); all sixteen bits are kept (log 23). -/
def setAutoStep (v : Half) (s : State) : State := (s.emit (.setStep v)).withEnv { s.env with autoStep := v }

/-- `GetStep()`: the event; the answer is `s.env.autoStep` (R59). -/
def askStep (s : State) : State := s.emit (.getStep s.env.autoStep)

/-- `BusTaken()`: the event; the answer is `s.env.busTaken` (R61). -/
def askBusTaken (s : State) : State := s.emit (.taken s.env.busTaken)

/-- `Resume()`: afterwards the bus is not taken (R63). -/
def resumeCoprocessor (s : State) : State := (s.emit .resume).withEnv { s.env with busTaken := false }

/-- `SignalPending()`: the event, and the external flag it sets (R65, log 19). -/
def signalPending (s : State) : State := (s.emit .pend).withEnv { s.env with pending := true }

/-- `MemRead(a, 2)`: the event; the answer is `srcWord` (R52). -/
def askSource (p : Params) (a : SrcAddr) (s : State) : State := s.emit (.srcRd a (srcWord p s.srcMem a))

/-- `Diag`: an advisory message, which an implementation may omit (R64, R246; log 6). -/
def emitDiag (p : Params) (d : Diag) (s : State) : State := if p.diagnostics then s.emit (.diag d) else s

/-- The final action of every command: write RESP (R31). -/
def respond (v : Word) (s : State) : State := { s.emit (.resp v) with resp := v }

/-! ### Conditions: what an exception is here (60_exceptions.md R240 to R250)

There is no trap entry: a condition "saves no state, switches no mode, changes no mask and transfers control nowhere" (R250).
There is no return from one (R251). -/

/-- The conditions (R240). -/
inductive Condition where
  | queueFull
  | budgetExceeded
  | badCommand
  deriving DecidableEq, Repr

/-- The numeric code of a condition (R240, D28); it appears nowhere in state. -/
def conditionCode : Condition → Nat
  | .queueFull => 1
  | .budgetExceeded => 2
  | .badCommand => 3

/-- The diagnostic of a condition (R240, R246). -/
def conditionDiag (c : Condition) (s : State) : Diag :=
  match c with
  | .queueFull => .alertQueueFull
  | .budgetExceeded => .warnBudget s.qbytes s.budget
  | .badCommand => .alertBadCommand

/-- Report a condition to the diagnostic sink. For BudgetExceeded that is all: it is advisory (R242). -/
def report (p : Params) (c : Condition) (s : State) : State := emitDiag p (conditionDiag c s) s

/-- `raise`: emit the diagnostic, write RESP = 0 and end the command (R13, R241, R245). Nothing else changes (R250). -/
def raise (p : Params) (c : Condition) (s : State) : State := respond 0#32 (report p c s)

/-! ### The counters -/

/-- The three writes of `clearQueue()` (R156), shared by CLRQ, FLUSH and INIT. -/
def clearQueue (s : State) : State := { s with qcount := 0#16, ovfidx := 0#16, qbytes := 0#32 }

/-! ### The wait (R58, R74) -/

/-- `WaitIdle()` and what comes after it: with the engine idle the call returns (event `WAIT`) and the command goes on; with
the engine busy the command is held where it stands and emits nothing. -/
def waitIdle (h : Held) (after : State → State) (s : State) : State :=
  if s.env.engine = .idle then after (s.emit .wait) else { s with held := some h }

/-- The engine one turn of its own later (log 3). -/
def turnOf : Engine → Engine
  | .idle => .idle
  | .busy 0 => .idle
  | .busy (n + 1) => .busy n
  | .never => .never

/-- The engine `n` turns later. -/
def turnsOf : (n : Nat) → Engine → Engine
  | 0, e => e
  | n + 1, e => turnsOf n (turnOf e)

/-- One turn of the engine on its own (R58, R256; log 3). -/
def engineTurn (s : State) : State := s.withEnv { s.env with engine := turnOf s.env.engine }

/-! ### The halt (R62, R136) -/

/-- How the coprocessor answers the next Halt that finds its bus not taken (log 16). -/
def Env.nextRelease (e : Env) : Release := e.releases.headD (.after 0)

/-- The coprocessor has been told to release the bus (R61). -/
def Env.told (e : Env) : Env := { e with busTaken := true, releases := e.releases.tail }

/-- `Halt()` and what comes after it: the signal (event `HALT`), then the call "returns once the bus is released" and the command
goes on with the bus taken. Where it was taken already nothing changes and the call returns (R62); where the bus is never
released the command is held in the call for ever (U13, "stuck, like U7"; log 16). -/
def haltCoprocessor (after : State → State) (s : State) : State :=
  if s.env.busTaken then after (s.emit .halt)
  else
    match s.env.nextRelease with
    | .after n => after ((s.emit .halt).withEnv { s.env.told with engine := turnsOf n s.env.engine })
    | .never => { (s.emit .halt).withEnv s.env.told with held := some .inHalt }

/-! ### The bus-hazard-safe trigger sequencer (R128 to R131) -/

/-- Resume, but only where the bus was not taken before the sequence began (R128, D16). -/
def resumeUnless (wasTaken : Bool) (s : State) : State := if wasTaken then s else resumeCoprocessor s

/-- `TriggerSeq` (R128), with what is written after the trigger word while the bus is still held (a fill's data word, R204), and
what comes after the sequence. -/
def triggerSeqThen (w : Word) (inside after : State → State) (s : State) : State :=
  haltCoprocessor (fun t => after (resumeUnless s.env.busTaken (inside (writeTrigger w t)))) (askBusTaken s)

/-- `TriggerSeq` (R128) and what comes after it. -/
def triggerSeq (w : Word) (after : State → State) (s : State) : State := triggerSeqThen w id after s

/-- The transient BATCHOPEN and TAKEN of a PER_BATCH flush (R35). -/
structure Batch where
  isOpen : Bool
  taken : Bool
  deriving DecidableEq, Repr

/-- BATCHOPEN when FLUSH begins (R129). -/
def closedBatch : Batch := { isOpen := false, taken := false }

/-- The batch after one more trigger: the bus state is sampled once per batch (R129). -/
def openBatch (b : Batch) (s : State) : Batch := if b.isOpen then b else { isOpen := true, taken := s.env.busTaken }

/-- `TriggerSeqBatch` (R129) and what comes after it: no resume here. -/
def triggerSeqBatch (w : Word) (b : Batch) (after : State → State) (s : State) : State :=
  haltCoprocessor (fun t => after (writeTrigger w t)) (if b.isOpen then s else askBusTaken s)

/-- `BatchEnd` (R130). -/
def batchEnd (b : Batch) (s : State) : State := if b.isOpen && !b.taken then resumeCoprocessor s else s

/-! ### The step of a direct operation (R132) -/

/-- `EffStep`'s first result: the step packed and applied. -/
def effStep (step : Half) (s : State) : Half := if step = stepSentinel then s.env.autoStep else step

/-- `EffStep`'s event: `GetStep` is asked under the sentinel only. -/
def askEffStep (step : Half) (s : State) : State := if step = stepSentinel then askStep s else s

/-- "Optionally updates the auto-increment register": `SetStep` unless the step is the sentinel. -/
def setStepUnlessSentinel (step : Half) (s : State) : State := if step = stepSentinel then s else setAutoStep step s

/-! ### Hardware reset -/

/-- The state after hardware reset: registers and slots as R270 says; the collaborators are not touched (R271). -/
def hardwareReset (s : State) : State :=
  { s.forgetSlots with
    cap := 0#16, qcount := 0#16, ovfidx := 0#16, qbytes := 0#32, budget := 0#32, cfg := 0#2, resp := 0#32, held := none }

end Sys2Proof.Machine
end

