-- ==== Sys2Proof/Machine/SoftwareFallback.lean ====
section
/-!
DEFINITION. The software fallback copier (44_software_fallback.md): the function the flush engine and XFER call, and SWCOPY.
-/

namespace Sys2Proof.Machine

open Sys2Proof

/-- One turn of the copier's loop (R230): a read, then its write to DATA. -/
def copyWord (p : Params) (a : SrcAddr) (s : State) : State := writeData (srcWord p s.srcMem a) (askSource p a s)

/-- The copier's loop (R230): `n` words from address `a`, which advances by 2 modulo 2^24 (R126, D35). -/
def copyWords (p : Params) : (n : Nat) → (a : SrcAddr) → State → State
  | 0, _, s => s
  | n + 1, a, s => copyWords p n (a + 2#24) (copyWord p a s)

/-- `SoftwareCopy` (R230): the step, the trigger command word exactly as given, then the words. It starts no engine: "no
hardware transfer is triggered" (log 3). -/
def softwareCopy (p : Params) (trig : Word) (src : SrcAddr) (len step : Half) (s : State) : State :=
  copyWords p len.toNat src (writeCtrl32 trig (setAutoStep step s))

/-- SWCOPY (R231), after the well-formedness check (R98; log 18). It does not wait. -/
def execSwcopy (trig : Word) (src : SrcAddr) (len step : Half) (s : State) : Host.Outcome State Fault Refusal :=
  .next
    (if srcOdd src then raise Config.params .badCommand s
      else respond 1#32 (softwareCopy Config.params trig src len step s))

end Sys2Proof.Machine
end

