-- ==== Sys2Proof/Machine/FlushEngine.lean ====
section
/-!
DEFINITION. The flush engine (42_flush_engine.md): FLUSH.
-/

namespace Sys2Proof.Machine

open Sys2Proof

/-- The three words of a descriptor before its trigger (R182, R73). -/
def writeDescriptorHead (p : Params) (d : Descriptor) (s : State) : State :=
  writeCtrl32 d.w3 (writeMid p d.w2 (writeLength d.w1 s))

/-- `ReplayHardware` (R182) and what comes after it: the state. -/
def replayHardware (p : Params) (d : Descriptor) (b : Batch) (after : State → State) (s : State) : State :=
  match p.haltScope with
  | .perTrigger => triggerSeq d.w4 after (writeDescriptorHead p d s)
  | .perBatch => triggerSeqBatch d.w4 b after (writeDescriptorHead p d s)

/-- The batch after `ReplayHardware` (R129, R182): nothing of a descriptor before its trigger changes whether the bus is
taken. -/
def replayBatch (p : Params) (d : Descriptor) (b : Batch) (s : State) : Batch :=
  match p.haltScope with
  | .perTrigger => b
  | .perBatch => openBatch b (writeDescriptorHead p d s)

/-- `ReplayFallback` (R183). -/
def replayFallback (p : Params) (d : Descriptor) (s : State) : State :=
  softwareCopy p d.w4 (unpackSrc d.w2 d.w3) (unpackLen d.w1) (unpackStep d.w2) s

/-- What follows the last descriptor: the end of the batch in PER_BATCH scope (R180). -/
def endReplay (p : Params) (b : Batch) (s : State) : State :=
  match p.haltScope with
  | .perTrigger => s
  | .perBatch => batchEnd b s

/-- Step 4 of FLUSH with hardware transfers (R180) and what comes after it: slots `i`, `i + 1`, ... replayed in order. Each next
W1 is written whatever the engine is doing (R279; log 22). -/
def replayAllHardware (p : Params) : (n i : Nat) → Batch → (after : State → State) → State → State
  | 0, _, b, after, s => after (endReplay p b s)
  | n + 1, i, b, after, s =>
    replayHardware p (s.slot i) b (replayAllHardware p n (i + 1) (replayBatch p (s.slot i) b s) after) s

/-- Step 4 of FLUSH with hardware transfers disabled (R183). -/
def replayAllFallback (p : Params) : (n i : Nat) → State → State
  | 0, _, s => s
  | n + 1, i, s => replayAllFallback p n (i + 1) (replayFallback p (s.slot i) s)

/-- Step 4 of FLUSH (R180) and what comes after it. -/
def replayAll (p : Params) (n : Nat) (after : State → State) (s : State) : State :=
  match p.hwXfer with
  | .enabled => replayAllHardware p n 0 closedBatch after s
  | .disabled => after (replayAllFallback p n 0 s)

/-- Steps 5 and 6 of FLUSH (R180): the auto-increment restored, the queue cleared. -/
def endFlush (saved : Half) (s : State) : State := respond 1#32 (clearQueue (setAutoStep saved s))

/-- FLUSH from its step 3 on (R180): the auto-increment saved, then steps 4 to 6. -/
def flushFromIdle (p : Params) (s : State) : State :=
  replayAll p s.replayCount.toNat (endFlush s.env.autoStep) (askStep s)

/-- FLUSH (R180). Its step 2 is the only wait (C7, log 22). -/
def execFlush (s : State) : Host.Outcome State Fault Refusal :=
  .next (waitIdle (.start .flush) (flushFromIdle Config.params) s)

end Sys2Proof.Machine
end

