-- ==== Sys2Proof/Machine/DirectTransfer.lean ====
section
/-!
DEFINITION. The direct transfer commands (43_direct_transfer.md): XFER, FILL, COPY. They "bypass the queue entirely".
-/

namespace Sys2Proof.Machine

open Sys2Proof

/-- `XferOne` with hardware transfers, after the wait and `EffStep` gave the step `eff` (R201), and what comes after it. -/
def issueHardware (p : Params) (cls : DestClass) (seg : Segment) (eff : Half) (after : State → State) (s : State) : State :=
  let d := packDesc p cls seg.src seg.dst seg.len eff
  triggerSeq d.w4 after (writeDescriptorHead p d s)

/-- `XferOne` after its wait (R201), in both values of HWXFER (D20), and what comes after it. -/
def issueSegment (p : Params) (cls : DestClass) (seg : Segment) (step : Half) (after : State → State) (s : State) : State :=
  match p.hwXfer with
  | .enabled => issueHardware p cls seg (effStep step s) after (setStepUnlessSentinel step (askEffStep step s))
  | .disabled =>
    after (softwareCopy p (p.trigWord cls seg.dst) (seg.src.setWidth 24) seg.len (effStep step s) (askEffStep step s))

/-- The last segment of an XFER and the end of the command (R200). -/
def issueLast (p : Params) (cls : DestClass) (seg : Segment) (step : Half) (s : State) : State :=
  issueSegment p cls seg step (respond 1#32) s

/-- The low segment of a split XFER, from its own `WaitIdle` on (R200, R201). -/
def transferLow (p : Params) (cls : DestClass) (low : Segment) (step : Half) (s : State) : State :=
  waitIdle (.lowSegment cls low step) (issueLast p cls low step) s

/-- XFER of a well-formed packet (R200): a crossing request goes out high segment first, the step left alone; then the low
segment with the requested step. -/
def transferNow (p : Params) (cls : DestClass) (src : SrcAddr) (dst len step : Half) (s : State) : State :=
  match decompose src dst len with
  | .split low high =>
    waitIdle (.start (.xfer cls src dst len step))
      (issueSegment p cls high stepSentinel (transferLow p cls low step)) s
  | .whole seg => waitIdle (.start (.xfer cls src dst len step)) (issueLast p cls seg step) s

/-- XFER (R200), after the well-formedness check (R98; log 18). -/
def execXfer (cls : DestClass) (src : SrcAddr) (dst len step : Half) (s : State) : Host.Outcome State Fault Refusal :=
  .next (if srcOdd src then raise Config.params .badCommand s else transferNow Config.params cls src dst len step s)

/-- FILL after its wait (R204): no `GetStep` under the sentinel, since no W2 is written; the data word inside the halt
window. -/
def fillFromIdle (p : Params) (dst len : Half) (val : Byte) (step : Half) (s : State) : State :=
  triggerSeqThen (p.fillTrigWord dst) (writeData (fillData val)) (respond 1#32)
    (writeCtrl16 fillSuffixWord (writeLength (packLen (fillAdjust dst len)) (setStepUnlessSentinel step s)))

/-- FILL (R204). HWXFER does not change it (D20). -/
def execFill (dst len : Half) (val : Byte) (step : Half) (s : State) : Host.Outcome State Fault Refusal :=
  .next (waitIdle (.start (.fill dst len val step)) (fillFromIdle Config.params dst len val step) s)

/-- COPY after its wait (R206): W1, W2, W3 of the offset shifted left by one, the copy suffix, the trigger. -/
def copyFromIdle (p : Params) (srcoff dst len step : Half) (s : State) : State :=
  let a := copyAddr srcoff
  let head : Descriptor :=
    { w1 := packLen len, w2 := packMid a (effStep step s), w3 := packHiLo a, w4 := p.copyTrigWord dst }
  triggerSeq head.w4 (respond 1#32)
    (writeCtrl16 copySuffixWord (writeDescriptorHead p head (setStepUnlessSentinel step (askEffStep step s))))

/-- COPY (R206). HWXFER does not change it (D20). -/
def execCopy (srcoff dst len step : Half) (s : State) : Host.Outcome State Fault Refusal :=
  .next (waitIdle (.start (.copy srcoff dst len step)) (copyFromIdle Config.params srcoff dst len step) s)

end Sys2Proof.Machine
end

