-- ==== Sys2Proof/Machine/QueueController.lean ====
section
/-!
DEFINITION. The queue controller's commands (41_queue_controller.md): INIT, SETCFG, ENQ, CLRQ, QSIZE, QBYTES, QOVF. None
writes the port or waits.
-/

namespace Sys2Proof.Machine

open Sys2Proof

/-- INIT (R150). CFG is not changed; the slots' contents are unspecified afterwards (log 8). -/
def execInit (cap : Half) (budget : Word) (s : State) : Host.Outcome State Fault Refusal :=
  .next (respond 1#32 (clearQueue { s.forgetSlots with cap := cap, budget := budget }))

/-- SETCFG (R151): both policy bits, together. -/
def execSetcfg (autoflush ignover : Bool) (s : State) : Host.Outcome State Fault Refusal :=
  .next (respond 1#32 { s with cfg := cfgOf autoflush ignover })

/-- The first crossing records the index of the descriptor that caused it and warns (R154). QCOUNT is already incremented. -/
def recordOverflow (p : Params) (s : State) : State :=
  if s.overflowRecorded then s else report p .budgetExceeded { s with ovfidx := s.qcount - 1#16 }

/-- `BudgetCheck`'s state (R154). -/
def budgetCheck (p : Params) (s : State) : State := if s.overBudget then recordOverflow p s else s

/-- `BudgetCheck`'s answer (R154): false only over budget under ignore-over-capacity. It depends on the present total, not on
whether this call recorded the index. -/
def budgetAccepts (s : State) : Bool := !(s.overBudget && s.ignover)

/-- Auto-flush (R153): "if auto-flush is enabled and the running byte total is nonzero". -/
def autoflushSignal (s : State) : State := if s.autoflush && s.qbytes != 0#32 then signalPending s else s

/-- The store itself (R153): the packed words into the next free slot, the count, the byte total (R126: modulo 2^32). -/
def storeDescriptor (p : Params) (cls : DestClass) (seg : Segment) (step : Half) (s : State) : State :=
  { s.storeSlot s.qcount.toNat (packDesc p cls seg.src seg.dst seg.len step) with
    qcount := s.qcount + 1#16
    qbytes := s.qbytes + (seg.len.setWidth 32 <<< 1) }

/-- `StoreOne`'s state (R153). Its answer is `budgetAccepts` of that state. -/
def storeOne (p : Params) (cls : DestClass) (seg : Segment) (step : Half) (s : State) : State :=
  budgetCheck p (autoflushSignal (storeDescriptor p cls seg step s))

/-- ENQ of a well-formed packet (R152). -/
def enqueue (p : Params) (cls : DestClass) (src : SrcAddr) (dst len step : Half) (s : State) : State :=
  if s.queueFull then raise p .queueFull s
  else
    match decompose src dst len with
    | .split low high =>
      if s.noRoomForTwo then raise p .queueFull s
      else
        let t := storeOne p cls low step (storeOne p cls high step s)
        respond (acceptedResp (budgetAccepts t)) t
    | .whole seg =>
      let t := storeOne p cls seg step s
      respond (acceptedResp (budgetAccepts t)) t

/-- ENQ (R152), after the well-formedness check that comes before any other action (R98; log 18). -/
def execEnq (cls : DestClass) (src : SrcAddr) (dst len step : Half) (s : State) : Host.Outcome State Fault Refusal :=
  .next (if srcOdd src then raise Config.params .badCommand s else enqueue Config.params cls src dst len step s)

/-- CLRQ (R156). -/
def execClrq (s : State) : Host.Outcome State Fault Refusal := .next (respond 1#32 (clearQueue s))

/-- QSIZE (R157). -/
def execQsize (s : State) : Host.Outcome State Fault Refusal := .next (respond (s.qcount.setWidth 32) s)

/-- QBYTES (R158). -/
def execQbytes (s : State) : Host.Outcome State Fault Refusal := .next (respond s.qbytes s)

/-- QOVF (R159). -/
def execQovf (s : State) : Host.Outcome State Fault Refusal := .next (respond (s.ovfidx.setWidth 32) s)

end Sys2Proof.Machine
end

