-- ==== Sys2Proof/Machine/RegisterPort.lean ====
section
/-!
DEFINITION. The outward words of 30_encoding.md part 1 as instructions (log 11): a word that reaches the Register Port by the
host's own means (70_reset_and_hazards.md R278) is one port write (20_memory.md R57), and does to the engine what the spec says
a word of its kind does. It is no command (R96): RESP is not written, and nothing halts the secondary coprocessor, which is the
host's own duty there (R278).
-/

namespace Sys2Proof.Machine

open Sys2Proof

/-- The W2 of two data lanes: the packer's word for an address with `mid` in bits 16:9 and for a one-byte step (R82). -/
def midWord (mid step : Byte) : Word := packMid (mid.setWidth 25 <<< 9) (step.setWidth 16)

/-- The W3 of two data lanes: the packer's word for an address with `hi` in bits 23:17 and `lo` in bits 8:1 (R83). -/
def hiLoWord (hi : BitVec 7) (lo : Byte) : Word := packHiLo ((hi.setWidth 25 <<< 17) ||| (lo.setWidth 25 <<< 1))

/-- W1_LENGTH (R81). -/
def execW1Length (len : Half) (s : State) : Host.Outcome State Fault Refusal := .next (writeCtrl32 (packLen len) s)

/-- W2_MID_STEP (R82): the collaborator may take the step from it (R59). -/
def execW2MidStep (mid step : Byte) (s : State) : Host.Outcome State Fault Refusal :=
  .next (writeMid Config.params (midWord mid step) s)

/-- W3_HI_LO (R83). -/
def execW3HiLo (hi : BitVec 7) (lo : Byte) (s : State) : Host.Outcome State Fault Refusal :=
  .next (writeCtrl32 (hiLoWord hi lo) s)

/-- W4_TRIGGER (R84): "writing it starts the engine" (R14). -/
def execW4Trigger (word : Word) (s : State) : Host.Outcome State Fault Refusal := .next (writeTrigger word s)

/-- FILL_SUFFIX (R85). -/
def execFillSuffix (s : State) : Host.Outcome State Fault Refusal := .next (writeCtrl16 fillSuffixWord s)

/-- COPY_SUFFIX (R86). -/
def execCopySuffix (s : State) : Host.Outcome State Fault Refusal := .next (writeCtrl16 copySuffixWord s)

/-- FILL_DATA (R87). -/
def execFillData (val : Byte) (s : State) : Host.Outcome State Fault Refusal := .next (writeData (fillData val) s)

end Sys2Proof.Machine
end

