-- ==== Sys2Proof/Machine/Dispatch.lean ====
section
/-!
DEFINITION. What each instruction does: one arm per constructor.
-/

namespace Sys2Proof.Machine

open Sys2Proof

def exec (i : Instr) (s : State) : Host.Outcome State Fault Refusal :=
  match i with
  | .init cap budget => Sys2Proof.Machine.execInit cap budget s
  | .setcfg autoflush ignover => Sys2Proof.Machine.execSetcfg autoflush ignover s
  | .enq cls src dst len step => Sys2Proof.Machine.execEnq cls src dst len step s
  | .clrq => Sys2Proof.Machine.execClrq s
  | .qsize => Sys2Proof.Machine.execQsize s
  | .qbytes => Sys2Proof.Machine.execQbytes s
  | .qovf => Sys2Proof.Machine.execQovf s
  | .flush => Sys2Proof.Machine.execFlush s
  | .xfer cls src dst len step => Sys2Proof.Machine.execXfer cls src dst len step s
  | .fill dst len val step => Sys2Proof.Machine.execFill dst len val step s
  | .copy srcoff dst len step => Sys2Proof.Machine.execCopy srcoff dst len step s
  | .swcopy trig src len step => Sys2Proof.Machine.execSwcopy trig src len step s
  | .w1Length len => Sys2Proof.Machine.execW1Length len s
  | .w2MidStep mid step => Sys2Proof.Machine.execW2MidStep mid step s
  | .w3HiLo hi lo => Sys2Proof.Machine.execW3HiLo hi lo s
  | .w4Trigger word => Sys2Proof.Machine.execW4Trigger word s
  | .fillSuffix => Sys2Proof.Machine.execFillSuffix s
  | .copySuffix => Sys2Proof.Machine.execCopySuffix s
  | .fillData val => Sys2Proof.Machine.execFillData val s

end Sys2Proof.Machine
end

