-- ==== Sys2Proof/Machine/Sequencer.lean ====
section
/-!
DEFINITION. The pieces of a step that are not an instruction's meaning: taking in what was handed over, going on with a held
command, and the acts of the agents outside (20_memory.md R58, R67; 60_exceptions.md R256).
-/

namespace Sys2Proof.Machine

open Sys2Proof

/-- Run what was handed over. A packet that is not one of the twelve well-formed commands is a BadCommand (R97, R98, R245); a
16-bit port word no row of the table lists is refused (log 12). -/
def runFetched (f : Fetched) (s : State) : Host.Outcome State Fault Refusal :=
  match decode f with
  | .ok i => exec i s
  | .error (.unlistedPortWord w) => .refused (.unlistedPortWord w)
  | .error _ => .next (raise Config.params .badCommand s)

/-- Go on with a held command, its wait asked again (R58). A command held at its first `WaitIdle` has done nothing yet and
begins; an XFER held at its second goes on with its low segment; a command in a `Halt` that never returns stays there (U13). -/
def resumeHeld (h : Held) (s : State) : Host.Outcome State Fault Refusal :=
  match h with
  | .start i => exec i s
  | .lowSegment cls low step => .next (transferLow Config.params cls low step s)
  | .inHalt => .next { s with held := some .inHalt }

/-- An act of an agent outside BTQC, between commands (R256; log 13). -/
def act (a : Input) (s : State) : Host.Outcome State Fault Refusal :=
  match a with
  | .fetch f => runFetched f s
  | .engine now afterTrigger => .next (s.withEnv { s.env with engine := now, afterTrigger := afterTrigger })
  | .setStep v => .next (s.withEnv { s.env with autoStep := v })
  | .release answers => .next (s.withEnv { s.env with releases := answers })
  | .busRequest taken => .next (s.withEnv { s.env with busTaken := taken })
  | .srcWrite a b => .next { s with srcMem := Memory.write s.srcMem a.toNat b }
  | .consumePending => .next (s.withEnv { s.env with pending := false })
  | .reset => .next (hardwareReset s)

/-- A turn while a command is held: it goes on, where it can, once the engine is idle; until then only the engine moves (R58,
R243). -/
def heldTurn (h : Held) (s : State) : Host.Outcome State Fault Refusal :=
  if s.env.engine = .idle then resumeHeld h { s with held := none } else .next (engineTurn s)

/-- A turn while no command is held: the next act of the agents outside, or the engine's own turn where there is none. -/
def idleTurn (s : State) : Host.Outcome State Fault Refusal :=
  match s.inputs with
  | [] => .next (engineTurn s)
  | a :: rest => act a { s with inputs := rest }

end Sys2Proof.Machine
end

