-- ==== Sys2Proof/Machine/Step.lean ====
section
/-!
DEFINITION. One step of the machine.

A step runs one command to its end, or to a `WaitIdle` or `Halt` that does not return (log 2); or it is one act of an agent
outside, or one turn of the engine. The command port takes no packet while a command is held (R67).
-/

namespace Sys2Proof.Machine

open Sys2Proof

/-- One step. -/
def step (s : State) : Host.Outcome State Fault Refusal :=
  match s.held with
  | some h => heldTurn h s
  | none => idleTurn s

/-- The state with an instruction put where `step` takes its next one from: first at the command port (a packet) or at the
Register Port (a 16-bit or 32-bit word), with no command held (log 14, log 20). -/
def State.withFetchWord (s : State) (nbits w : Nat) : State :=
  { s with held := none, inputs := .fetch (Fetched.ofTable nbits w) :: s.inputs }

end Sys2Proof.Machine
end

