-- ==== Sys2Proof/Safety.lean ====
section
/-!
DEFINITION. The terms claims are made in: the invariants of the queue (10_state.md R29, R33), the canonical forms of the
model's data, the guarded-trigger rule (40_datapath_units.md R131), frames, the premises on the collaborators (R136, R279), and
the event lists the command rules prescribe.
The event lists are written from the rules, not from the meanings: a claim that a meaning emits one of them compares the two.
-/

namespace Sys2Proof.Machine

open Sys2Proof

/-! ### Frames -/

/-- Every byte of source memory reads as before. -/
def SameSource (s t : State) : Prop := ∀ a : Nat, Memory.read t.srcMem a = Memory.read s.srcMem a

/-- Every slot outside `except` reads as before. -/
def SameSlots (s t : State) (except : List Nat := []) : Prop := ∀ i : Nat, i ∉ except → t.slot i = s.slot i

/-- CAP, BUDGET and CFG are as before. -/
def SameSetup (s t : State) : Prop := t.cap = s.cap ∧ t.budget = s.budget ∧ t.cfg = s.cfg

/-- QCOUNT, OVFIDX and QBYTES are as before. -/
def SameCounters (s t : State) : Prop := t.qcount = s.qcount ∧ t.ovfidx = s.ovfidx ∧ t.qbytes = s.qbytes

/-- The whole queue state is as before (R40, the row of the direct operations). -/
def SameQueue (s t : State) : Prop := SameSetup s t ∧ SameCounters s t ∧ SameSlots s t

/-- What BTQC cannot change is as before: source memory (R52) and what the agents outside will do. -/
def SameOutside (s t : State) : Prop := SameSource s t ∧ t.inputs = s.inputs

/-! ### Invariants -/

/-- "The sum over occupied slots of 2 × the slot's length in words" (R27), over the first `n` slots, as a natural. -/
def queuedBytes (s : State) : Nat → Nat
  | 0 => 0
  | n + 1 => queuedBytes s n + 2 * (unpackLen (s.slot n).w1).toNat

/-- The descriptor is the packing of a transfer from an even source address that does not leave its bank (R33). -/
def FitsBank (p : Params) (d : Descriptor) : Prop :=
  ∃ (cls : DestClass) (src : SegAddr) (dst len step : Half),
    d = packDesc p cls src dst len step ∧ src.getLsbD 0 = false ∧ src.toNat % bankBytes + 2 * len.toNat ≤ bankBytes

/-- The invariants of R29, item by item. -/
structure QueueInv (s : State) : Prop where
  /-- R29 item 1. -/
  count_le_cap : s.qcount.toNat ≤ s.cap.toNat
  /-- R29 item 2. -/
  ovfidx_lt_count : s.ovfidx ≠ 0#16 → s.ovfidx.toNat < s.qcount.toNat
  /-- R29 item 3. -/
  bytes_eq_sum : s.qbytes = BitVec.ofNat 32 (queuedBytes s s.qcount.toNat)
  /-- R29 item 4. -/
  no_wrap : s.cap.toNat ≤ 32768 → queuedBytes s s.qcount.toNat < 2 ^ 32
  /-- R29 item 5. -/
  occupied_fit : ∀ i : Nat, i < s.qcount.toNat → FitsBank Config.params (s.slot i)

/-- The model's lists are in their canonical forms (log 8, log 9). -/
def CanonicalForms (s : State) : Prop := Memory.wf s.srcMem = true ∧ risingFrom 0 s.slots = true

/-! ### The guarded-trigger rule (R131) -/

/-- A reading of a command's events word by word: how many CTRL words of the present transfer have been written (a suffix word
leaves only the trigger to come), and whether the event just before was `HALT`. `none` once a trigger word was written with
anything else just before it. -/
def guardStep : Option (Nat × Bool) → Event → Option (Nat × Bool)
  | none, _ => none
  | some (n, afterHalt), .cw32 _ => if n = 3 then (if afterHalt then some (0, false) else none) else some (n + 1, false)
  | some _, .cw16 _ => some (3, false)
  | some (n, _), .halt => some (n, true)
  | some (n, _), _ => some (n, false)

/-- Every trigger word among the events of a command is written just after a `HALT` (R131; R129 asks the same within a
batch). The trigger word is the fourth CTRL word of a descriptor, or the CTRL word after a fill or copy suffix. -/
def triggersGuarded (evs : List Event) : Bool := (evs.foldl guardStep (some (0, false))).isSome

/-- Whether the software copier moves the data of a command: SWCOPY always, FLUSH and XFER with hardware transfers disabled
(D20). -/
def usesCopier (p : Params) (i : Instr) : Bool :=
  match i with
  | .swcopy _ _ _ _ => true
  | .flush | .xfer _ _ _ _ _ => p.hwXfer == .disabled
  | _ => false

/-- The events that touch the secondary coprocessor. -/
def touchesCoprocessor : Event → Bool
  | .taken _ | .halt | .resume => true
  | _ => false

/-! ### The collaborators' side of a transfer -/

/-- The next `k` Halts return: the bus is taken already, or the coprocessor releases it each of those times (R62; log 16). -/
def HaltsReturn (e : Env) (k : Nat) : Prop := e.busTaken = true ∨ ∀ r ∈ e.releases.take k, r ≠ .never

/-- How many of `n` transfers are hardware transfers: the copier triggers none (D20). -/
def hardwareTransfers (p : Params) (n : Nat) : Nat :=
  match p.hwXfer with
  | .enabled => n
  | .disabled => 0

/-- How many Halts of a FLUSH of `n` descriptors find the bus not taken, where it was not taken before: one for each, or one for
the batch (R128, R129). -/
def flushHalts (p : Params) (n : Nat) : Nat :=
  match p.haltScope with
  | .perTrigger => hardwareTransfers p n
  | .perBatch => hardwareTransfers p (min n 1)

/-- What `triggers` trigger words, and `halts` Halts that found the bus not taken, make of the engine and of what the environment
still has in store (R14, R84; log 3, log 16). -/
def Triggered (triggers halts : Nat) (e e' : Env) : Prop :=
  e'.engine = (if triggers = 0 then e.engine else (e.afterTrigger.drop (triggers - 1)).headD .idle) ∧
  e'.afterTrigger = e.afterTrigger.drop triggers ∧
  e'.releases = if e.busTaken then e.releases else e.releases.drop halts

/-- D26's premise, for a FLUSH of `n` descriptors: "a source-memory transfer is over, or the port stalls, before the next W1"
(R279). In the model's terms, where BTQC's next event follows at once: each trigger but the last leaves the engine idle. -/
def TransfersOverByNextW1 (e : Env) (n : Nat) : Prop := ∀ a ∈ e.afterTrigger.take (n - 1), a = .idle

/-- A command that is held in a Halt that never returns, having appended `evs` and then `HALT` (U13): the bus has been asked for,
RESP is not written, the queue is untouched. -/
def HungInHalt (s t : State) (evs : List Event) : Prop :=
  t.held = some .inHalt ∧ t.trace = s.trace ++ (evs ++ [.halt]) ∧ t.resp = s.resp ∧ t.env.busTaken = true ∧
  t.env.pending = s.env.pending ∧ SameQueue s t ∧ SameOutside s t

/-- The events before the first `HALT`. -/
def beforeHalt (evs : List Event) : List Event := evs.takeWhile (· != .halt)

/-! ### Event lists the rules prescribe -/

/-- The diagnostic part of a trace: an implementation may emit none (R246). -/
def diagEvents (p : Params) (d : Diag) : List Event := if p.diagnostics then [.diag d] else []

/-- The resume that closes a trigger sequence, where the bus was not taken before it (R128). -/
def resumeEvents (wasTaken : Bool) : List Event := if wasTaken then [] else [.resume]

/-- One descriptor with its own trigger sequence (R128, R182). -/
def perTriggerEvents (wasTaken : Bool) (d : Descriptor) : List Event :=
  [.cw32 d.w1, .cw32 d.w2, .cw32 d.w3, .taken wasTaken, .halt, .cw32 d.w4] ++ resumeEvents wasTaken

/-- The descriptors of a batch, without its resume: the bus is sampled before the first trigger only (R129, R184). -/
def perBatchEvents (wasTaken : Bool) : List Descriptor → List Event
  | [] => []
  | d :: ds =>
    [.cw32 d.w1, .cw32 d.w2, .cw32 d.w3, .taken wasTaken, .halt, .cw32 d.w4] ++
      ds.flatMap fun e => [.cw32 e.w1, .cw32 e.w2, .cw32 e.w3, .halt, .cw32 e.w4]

/-- The reads and writes of the software copier (R230): addresses src + 2·k modulo 2^24. -/
def copierPairs (p : Params) (m : Memory) (src : SrcAddr) (len : Nat) : List Event :=
  (List.range len).flatMap fun k =>
    let a := src + BitVec.ofNat 24 (2 * k)
    [.srcRd a (srcWord p m a), .dw16 (srcWord p m a)]

/-- Everything the software copier emits (R230). -/
def copierEvents (p : Params) (m : Memory) (trig : Word) (src : SrcAddr) (len step : Half) : List Event :=
  [.setStep step, .cw32 trig] ++ copierPairs p m src len.toNat

/-- Slots 0 .. n − 1, in order. -/
def firstSlots (s : State) (n : Nat) : List Descriptor := (List.range n).map s.slot

/-- Step 4 of FLUSH over the replayed slots (R180, R182, R183, R184). -/
def replayEvents (p : Params) (s : State) (ds : List Descriptor) : List Event :=
  match p.hwXfer, p.haltScope with
  | .enabled, .perTrigger => ds.flatMap (perTriggerEvents s.env.busTaken)
  | .enabled, .perBatch =>
    perBatchEvents s.env.busTaken ds ++ (if ds.isEmpty then [] else resumeEvents s.env.busTaken)
  | .disabled, _ => ds.flatMap fun d => copierEvents p s.srcMem d.w4 (unpackSrc d.w2 d.w3) (unpackLen d.w1) (unpackStep d.w2)

/-- The step question and setting of a direct operation (R132, R201): `GETSTEP` under the sentinel, `SETSTEP` otherwise. -/
def stepEvents (current step : Half) : List Event :=
  if step = 0xFFFF#16 then [.getStep current] else [.setStep step]

/-- The events of one segment of an XFER after its `WAIT` (R201), the present auto-increment being `current`. -/
def segmentEvents (p : Params) (m : Memory) (wasTaken : Bool) (current : Half) (cls : DestClass) (seg : Segment)
    (step : Half) : List Event :=
  let eff := if step = 0xFFFF#16 then current else step
  match p.hwXfer with
  | .enabled => stepEvents current step ++ perTriggerEvents wasTaken (packDesc p cls seg.src seg.dst seg.len eff)
  | .disabled =>
    (if step = 0xFFFF#16 then [.getStep current] else []) ++
      copierEvents p m (p.trigWord cls seg.dst) (seg.src.setWidth 24) seg.len eff

/-- What is written to the Register Port among some events: CTRL words of both widths and DATA words, in order. -/
def portTraffic (evs : List Event) : List Event :=
  evs.filter fun
    | .cw32 _ | .cw16 _ | .dw16 _ => true
    | _ => false

/-- The 32-bit CTRL words among some events, in order. -/
def ctrlWords (evs : List Event) : List Word :=
  evs.filterMap fun
    | .cw32 v => some v
    | _ => none

/-- Everything but the diagnostics, which no claim may depend on (R246). -/
def withoutDiag (evs : List Event) : List Event :=
  evs.filter fun
    | .diag _ => false
    | _ => true

/-- A packet whose opcode is defined and which R98 makes a BadCommand: a bit that must be zero is set (the table's mask covers
the opcode, the unused fields, SRC[0] and AUX[31:2]), or CLS = 3 for ENQ and XFER. -/
def reservedFieldValue (p : Packet) : Bool :=
  let bad (mask : Nat) : Bool := p.bits.toNat &&& mask != p.op.toNat <<< 120
  match p.op.toNat with
  | 0x01 => bad 0xFFFFFFFFFFFF0000FFFFFFFF00000000
  | 0x02 => bad 0xFFFFFFFFFFFFFFFFFFFFFFFFFFFFFFFC
  | 0x03 => bad 0xFF000001000000000000FFFCFFFFFFFF || p.cls == 3#2
  | 0x09 => bad 0xFF000001000000000000FFFCFFFFFFFF || p.cls == 3#2
  | 0x0A => bad 0xFFFFFFFF00000000000000FFFFFFFFFF
  | 0x0B => bad 0xFFFF0000000000000000FFFFFFFFFFFF
  | 0x0C => bad 0xFF000001FFFF00000000FFFF00000000
  | _ => bad 0xFFFFFFFFFFFFFFFFFFFFFFFFFFFFFFFF

end Sys2Proof.Machine
end

