-- ==== Sys2Proof/Certificates/Slice0/Obligations.lean ====
section
/-!
DEFINITION. The statements for the provers. OBLIGATIONS.json says of each which rule of spec/ it formalises.

Where the rules differ by HWXFER or HALT_SCOPE the conclusion does; a hypothesis that Halts return (`HaltsReturn`, R136 "is
assumed to return") counts only those Halts that the parameters call for, and what happens where one does not return is
stated beside it (U13, log 16). An equation `exec i s = .next { s with … }` says the instruction's whole frame: every field it
does not name is as before, source memory and every slot among them.
-/

open Sys2Proof Sys2Proof.Machine

/-! ### Encodings (30_encoding.md) -/

/-- Decoding the encoding of a well-formed instruction gives it back, for all nineteen instructions and every operand value. -/
def Obligations.DecodeUndoesEncode : Prop :=
  ∀ i : Instr, i.wellFormed = true → decode (encode i) = .ok i

/-- R99: a packet that decodes is the encoding of what it decodes to, a well-formed command, so two packets that decode to the
same command with the same operands are the same packet; and a packet with a defined opcode and no reserved field value
decodes. -/
def Obligations.PacketsDecodeTotallyAndInjectively : Prop :=
  (∀ (p : Packet) (i : Instr),
    decodePacket p = .ok i → i.isCommand = true ∧ i.wellFormed = true ∧ encode i = .packet p) ∧
  (∀ (p q : Packet) (i : Instr), decodePacket p = .ok i → decodePacket q = .ok i → p = q) ∧
  (∀ p : Packet, 0 < p.op.toNat → p.op.toNat < 13 → reservedFieldValue p = false → ∃ i, decodePacket p = .ok i)

/-- R97: a packet with OP = 0x00 or OP = 0x0D .. 0xFF changes RESP, to 0, and nothing else; its only other event is the
diagnostic. -/
def Obligations.ReservedOpcodesAreBadCommands : Prop :=
  ∀ (s : State) (p : Packet) (rest : List Input),
    s.held = none → s.inputs = .fetch (.packet p) :: rest → p.op.toNat = 0 ∨ 13 ≤ p.op.toNat →
    step s = .next { s with
      inputs := rest
      resp := 0#32
      trace := s.trace ++ (diagEvents Config.params .alertBadCommand ++ [.resp 0#32]) }

/-- R98: a packet with a defined opcode is a well-formed command, or it has a reserved field value and is a BadCommand, handled
as in R97, before any other action of the command. -/
def Obligations.ReservedFieldValuesAreBadCommands : Prop :=
  ∀ (s : State) (p : Packet) (rest : List Input),
    s.held = none → s.inputs = .fetch (.packet p) :: rest → 0 < p.op.toNat → p.op.toNat < 13 →
    if reservedFieldValue p then
      step s = .next { s with
        inputs := rest
        resp := 0#32
        trace := s.trace ++ (diagEvents Config.params .alertBadCommand ++ [.resp 0#32]) }
    else
      ∃ i : Instr, i.isCommand = true ∧ i.wellFormed = true ∧ encode i = .packet p ∧ step s = exec i { s with inputs := rest }

/-- Whatever decodes has the width of its row of the opcode table, and the row's match under the row's mask. -/
def Obligations.DecodedInstructionsMatchTheirTableRow : Prop :=
  ∀ (f : Fetched) (i : Instr),
    decode f = .ok i → f.width = i.tableRow.bits ∧ f.number &&& i.tableRow.mask = i.tableRow.value

/-- R81, R82, R83, R87: the packers' formulas put every operand bit into the lane the rules draw. The step is added to W2
arithmetically, so it carries when it exceeds 0xFF. -/
def Obligations.PackedWordsHaveTheirLanes : Prop :=
  (∀ len : Half, packLen len = 0x94#8 ++ len.extractLsb' 8 8 ++ 0x93#8 ++ len.extractLsb' 0 8) ∧
  (∀ (src : SegAddr) (step : Half),
    (packMid src step).toNat = 0x96008F00 + 2 ^ 16 * (src.extractLsb' 9 8).toNat + step.toNat) ∧
  (∀ (src : SegAddr) (step : Byte),
    packMid src (step.setWidth 16) = 0x96#8 ++ src.extractLsb' 9 8 ++ 0x8F#8 ++ step) ∧
  (∀ src : SegAddr, packHiLo src = 0x97#8 ++ 0#1 ++ src.extractLsb' 17 7 ++ 0x95#8 ++ src.extractLsb' 1 8) ∧
  (∀ val : Byte, fillData val = val ++ val)

/-- R89: the three unpackers take the lanes of R81 to R83 back; unpacking gives back the length always, the low byte of the
step always, and the source address exactly as long as the step's carry does not reach the mid-address byte (step below
0x7100); the 25-bit address 0x1000000 unpacks as 0. -/
def Obligations.UnpackInvertsPack : Prop :=
  (∀ w1 w2 w3 : Word,
    unpackLen w1 = w1.extractLsb' 16 8 ++ w1.extractLsb' 0 8 ∧
    unpackSrc w2 w3 = w3.extractLsb' 16 7 ++ w2.extractLsb' 16 8 ++ w3.extractLsb' 0 8 ++ 0#1 ∧
    unpackStep w2 = 0#8 ++ w2.extractLsb' 0 8) ∧
  (∀ len : Half, unpackLen (packLen len) = len) ∧
  (∀ (src : SegAddr) (step : Half), unpackStep (packMid src step) = (step.extractLsb' 0 8).setWidth 16) ∧
  (∀ (src : SrcAddr) (step : Half), srcEven src = true →
    (unpackSrc (packMid (src.setWidth 25) step) (packHiLo (src.setWidth 25)) = src ↔ step.toNat < 0x7100)) ∧
  (∀ step : Half, step.toNat ≤ 0xFF → unpackSrc (packMid 0x1000000#25 step) (packHiLo 0x1000000#25) = 0#24)

/-- R206, R207: all sixteen bits of a COPY offset reach the address lanes of W2 and W3, and W3's bits 22:16 are 0. -/
def Obligations.CopyOffsetReachesTheAddressLanes : Prop :=
  ∀ (srcoff : Half) (step : Byte),
    packMid (copyAddr srcoff) (step.setWidth 16) = 0x96#8 ++ srcoff.extractLsb' 8 8 ++ 0x8F#8 ++ step ∧
    packHiLo (copyAddr srcoff) = 0x9700#16 ++ 0x95#8 ++ srcoff.extractLsb' 0 8

/-- Seven packets of 95_test_vectors.md part 3, each read as the command written beside it there. The eighth clause is no packet
but a lone 32-bit word: that it is an instruction, and read as W1 though the W4 row matches it too, is the model's reading, log 11
and log 12. -/
def Obligations.WrittenOutPacketsDecode : Prop :=
  decodePacket ⟨0x01000000#32, 0x00000008#32, 0x00000000#32, 0x00000064#32⟩ = .ok (.init 8#16 100#32) ∧
  decodePacket ⟨0x02000000#32, 0x00000000#32, 0x00000000#32, 0x00000002#32⟩ = .ok (.setcfg false true) ∧
  decodePacket ⟨0x03002100#32, 0x00280014#32, 0x00020001#32, 0x00000000#32⟩ =
    .ok (.enq .b 0x002100#24 0x0028#16 20#16 2#16) ∧
  decodePacket ⟨0x0903FFFC#32, 0x20000006#32, 0x00040002#32, 0x00000000#32⟩ =
    .ok (.xfer .c 0x03FFFC#24 0x2000#16 6#16 4#16) ∧
  decodePacket ⟨0x0A000000#32, 0x00010005#32, 0x00013C00#32, 0x00000000#32⟩ = .ok (.fill 1#16 5#16 0x3C#8 1#16) ∧
  decodePacket ⟨0x0B008001#32, 0x40000100#32, 0xFFFF0000#32, 0x00000000#32⟩ =
    .ok (.copy 0x8001#16 0x4000#16 0x0100#16 0xFFFF#16) ∧
  decodePacket ⟨0x0CFFFFFE#32, 0x00000002#32, 0x00020000#32, 0x40000080#32⟩ =
    .ok (.swcopy 0x40000080#32 0xFFFFFE#24 2#16 2#16) ∧
  decode (.port32 0x94129334#32) = .ok (.w1Length 0x1234#16)

/-! ### Shared units (40_datapath_units.md) -/

/-- R120, R121: a request of an even source address that ends in its bank is left whole; one that crosses the boundary is cut
at it into two segments whose lengths sum to the request's, the high one starting exactly at the boundary and the two
destination offsets contiguous; neither segment crosses a boundary. -/
def Obligations.DecomposeCutsAtTheBankBoundary : Prop :=
  ∀ (src : SrcAddr) (dst len : Half), srcEven src = true →
    (2 * len.toNat ≤ 0x20000 - src.toNat % 0x20000 →
      decompose src dst len = .whole { src := src.setWidth 25, dst := dst, len := len }) ∧
    (0x20000 - src.toNat % 0x20000 < 2 * len.toNat →
      ∃ low high : Segment, decompose src dst len = .split low high ∧
        low.src = src.setWidth 25 ∧ low.dst = dst ∧ 2 * low.len.toNat = 0x20000 - src.toNat % 0x20000 ∧
        low.len.toNat + high.len.toNat = len.toNat ∧
        high.src.toNat = src.toNat + 2 * low.len.toNat ∧ high.src.toNat % 0x20000 = 0 ∧
        high.dst = dst + low.len ∧ 2 * high.len.toNat < 0x20000)

/-- R133: the fill length adjustment, as naturals; "never larger than len and, for len ≥ 1, never 0". -/
def Obligations.FillAdjustMatchesTheRule : Prop :=
  ∀ dst len : Half,
    (fillAdjust dst len).toNat =
      (if len.toNat = 0 then 0
        else if dst.toNat % 2 = 1 then (if len.toNat < 3 then 1 else len.toNat - 2)
        else (if len.toNat < 2 then 1 else len.toNat - 1)) ∧
    (fillAdjust dst len).toNat ≤ len.toNat ∧ (1 ≤ len.toNat → 1 ≤ (fillAdjust dst len).toNat)

/-! ### Queue controller (41_queue_controller.md) -/

/-- R150: INIT sets CAP and BUDGET, clears the three counters, leaves CFG alone, answers 1 and talks to nobody. (Of the slots it
says nothing: their contents are unspecified after INIT.) -/
def Obligations.InitSetsUpAnEmptyQueue : Prop :=
  ∀ (cap : Half) (budget : Word) (s : State), ∃ t : State,
    exec (.init cap budget) s = .next t ∧
    t.cap = cap ∧ t.budget = budget ∧ t.qcount = 0#16 ∧ t.ovfidx = 0#16 ∧ t.qbytes = 0#32 ∧ t.resp = 1#32 ∧
    t.cfg = s.cfg ∧ t.trace = s.trace ++ [.resp 1#32] ∧ t.env = s.env ∧ t.held = s.held ∧ SameOutside s t

/-- R151: SETCFG writes both policy bits, and RESP, and nothing else. -/
def Obligations.SetcfgWritesBothPolicyBits : Prop :=
  ∀ (autoflush ignover : Bool) (s : State), ∃ t : State,
    exec (.setcfg autoflush ignover) s = .next t ∧
    t.autoflush = autoflush ∧ t.ignover = ignover ∧
    t = { s with cfg := t.cfg, resp := 1#32, trace := s.trace ++ [.resp 1#32] }

/-- R156: CLRQ clears the three counters, writes RESP, and changes nothing else. -/
def Obligations.ClrqClearsTheCounters : Prop :=
  ∀ s : State, exec .clrq s = .next { s with
    qcount := 0#16
    ovfidx := 0#16
    qbytes := 0#32
    resp := 1#32
    trace := s.trace ++ [.resp 1#32] }

/-- R157, R158, R159: the accessors answer QCOUNT, QBYTES and OVFIDX and change nothing but RESP. -/
def Obligations.AccessorsAnswerTheCounters : Prop :=
  ∀ s : State,
    exec .qsize s = .next { s with resp := s.qcount.setWidth 32, trace := s.trace ++ [.resp (s.qcount.setWidth 32)] } ∧
    exec .qbytes s = .next { s with resp := s.qbytes, trace := s.trace ++ [.resp s.qbytes] } ∧
    exec .qovf s = .next { s with resp := s.ovfidx.setWidth 32, trace := s.trace ++ [.resp (s.ovfidx.setWidth 32)] }

/-- R241: ENQ finds QCOUNT ≥ CAP, or a crossing request with QCOUNT + 2 > CAP: the transfer is dropped entirely; RESP = 0 and the
diagnostic are all that is recorded. -/
def Obligations.EnqRefusesWhenTheQueueIsFull : Prop :=
  ∀ (cls : DestClass) (src : SrcAddr) (dst len step : Half) (s : State), srcEven src = true →
    s.cap.toNat ≤ s.qcount.toNat ∨
      (0x20000 - src.toNat % 0x20000 < 2 * len.toNat ∧ s.cap.toNat < s.qcount.toNat + 2) →
    exec (.enq cls src dst len step) s = .next { s with
      resp := 0#32
      trace := s.trace ++ (diagEvents Config.params .alertQueueFull ++ [.resp 0#32]) }

/-- R70: ENQ, XFER and SWCOPY refuse an odd source address as BadCommand, with no state change but RESP and no port write. (That
a decoded command is checked too is the model's reading, log 18.) -/
def Obligations.OddSourceAddressesAreRefused : Prop :=
  ∀ (cls : DestClass) (src : SrcAddr) (dst len step : Half) (trig : Word) (s : State), srcEven src = false →
    let refused : Host.Outcome State Fault Refusal := .next { s with
      resp := 0#32
      trace := s.trace ++ (diagEvents Config.params .alertBadCommand ++ [.resp 0#32]) }
    exec (.enq cls src dst len step) s = refused ∧ exec (.xfer cls src dst len step) s = refused ∧
      exec (.swcopy trig src len step) s = refused

/-- ENQ of a request that does not cross, with a free slot: the packed descriptor in the next free slot and every other slot as
before; QCOUNT, QBYTES; the pending signal under auto-flush; OVFIDX and the warning on the first recorded crossing of the
budget; RESP 0 only over budget under ignore-over-capacity (R152, R153, R154). -/
def Obligations.EnqStoresAWholeRequest : Prop :=
  ∀ (cls : DestClass) (src : SrcAddr) (dst len step : Half) (s : State), srcEven src = true →
    2 * len.toNat ≤ 0x20000 - src.toNat % 0x20000 → s.qcount.toNat < s.cap.toNat →
    let total : Word := s.qbytes + 2#32 * len.setWidth 32
    let tooMuch : Prop := s.budget ≠ 0#32 ∧ s.budget.toNat < total.toNat
    let signals : Prop := s.autoflush = true ∧ total ≠ 0#32
    ∃ t : State, exec (.enq cls src dst len step) s = .next t ∧
      t.slot s.qcount.toNat =
        { w1 := packLen len, w2 := packMid (src.setWidth 25) step, w3 := packHiLo (src.setWidth 25),
          w4 := Config.params.trigWord cls dst } ∧
      SameSlots s t [s.qcount.toNat] ∧
      t.qcount = s.qcount + 1#16 ∧ t.qbytes = total ∧ SameSetup s t ∧ SameOutside s t ∧ t.held = s.held ∧
      (tooMuch ∧ s.ovfidx = 0#16 → t.ovfidx = s.qcount) ∧ (¬(tooMuch ∧ s.ovfidx = 0#16) → t.ovfidx = s.ovfidx) ∧
      (tooMuch ∧ s.ignover = true → t.resp = 0#32) ∧ (¬(tooMuch ∧ s.ignover = true) → t.resp = 1#32) ∧
      (signals → t.env = { s.env with pending := true }) ∧ (¬signals → t.env = s.env) ∧
      ∃ pend warn : List Event, t.trace = s.trace ++ (pend ++ warn ++ [.resp t.resp]) ∧
        (signals → pend = [.pend]) ∧ (¬signals → pend = []) ∧
        (tooMuch ∧ s.ovfidx = 0#16 → warn = diagEvents Config.params (.warnBudget total s.budget)) ∧
        (¬(tooMuch ∧ s.ovfidx = 0#16) → warn = [])

/-- ENQ of a crossing request with two free slots stores exactly two descriptors, the high segment at slot q and the low one at
slot q + 1, whose lengths sum to the request's; each store does its own auto-flush signal and budget check, and RESP is the low
segment's result (R123, R152, R155 case 2, R160 item 1). -/
def Obligations.EnqStoresACrossingRequestHighFirst : Prop :=
  ∀ (cls : DestClass) (src : SrcAddr) (dst len step : Half) (s : State), srcEven src = true →
    0x20000 - src.toNat % 0x20000 < 2 * len.toNat → s.qcount.toNat + 2 ≤ s.cap.toNat →
    ∃ (low high : Segment) (t : State), decompose src dst len = .split low high ∧
      exec (.enq cls src dst len step) s = .next t ∧
      t.slot s.qcount.toNat = packDesc Config.params cls high.src high.dst high.len step ∧
      t.slot (s.qcount.toNat + 1) = packDesc Config.params cls low.src low.dst low.len step ∧
      SameSlots s t [s.qcount.toNat, s.qcount.toNat + 1] ∧
      (unpackLen (t.slot s.qcount.toNat).w1).toNat + (unpackLen (t.slot (s.qcount.toNat + 1)).w1).toNat = len.toNat ∧
      t.qcount = s.qcount + 2#16 ∧ t.qbytes = s.qbytes + 2#32 * len.setWidth 32 ∧
      SameSetup s t ∧ SameOutside s t ∧ t.held = s.held ∧
      (let afterHigh : Word := s.qbytes + 2#32 * high.len.setWidth 32
       let overHigh : Prop := s.budget ≠ 0#32 ∧ s.budget.toNat < afterHigh.toNat
       let overBoth : Prop := s.budget ≠ 0#32 ∧ s.budget.toNat < t.qbytes.toNat
       (s.ovfidx ≠ 0#16 → t.ovfidx = s.ovfidx) ∧
       (s.ovfidx = 0#16 → overHigh → s.qcount ≠ 0#16 → t.ovfidx = s.qcount) ∧
       (s.ovfidx = 0#16 → ¬(overHigh ∧ s.qcount ≠ 0#16) → overBoth → t.ovfidx = s.qcount + 1#16) ∧
       (s.ovfidx = 0#16 → ¬(overHigh ∧ s.qcount ≠ 0#16) → ¬overBoth → t.ovfidx = 0#16) ∧
       (overBoth ∧ s.ignover = true → t.resp = 0#32) ∧ (¬(overBoth ∧ s.ignover = true) → t.resp = 1#32) ∧
       (s.autoflush = true ∧ (afterHigh ≠ 0#32 ∨ t.qbytes ≠ 0#32) → t.env = { s.env with pending := true }) ∧
       (¬(s.autoflush = true ∧ (afterHigh ≠ 0#32 ∨ t.qbytes ≠ 0#32)) → t.env = s.env) ∧
       ∃ pendHigh warnHigh pendLow warnLow : List Event,
        t.trace = s.trace ++ (pendHigh ++ warnHigh ++ pendLow ++ warnLow ++ [.resp t.resp]) ∧
        pendHigh = (if s.autoflush = true ∧ afterHigh ≠ 0#32 then [.pend] else []) ∧
        pendLow = (if s.autoflush = true ∧ t.qbytes ≠ 0#32 then [.pend] else []) ∧
        (overHigh ∧ s.ovfidx = 0#16 → warnHigh = diagEvents Config.params (.warnBudget afterHigh s.budget)) ∧
        (¬(overHigh ∧ s.ovfidx = 0#16) → warnHigh = []) ∧
        (overBoth ∧ s.ovfidx = 0#16 ∧ ¬(overHigh ∧ s.qcount ≠ 0#16) →
          warnLow = diagEvents Config.params (.warnBudget t.qbytes s.budget)) ∧
        (¬(overBoth ∧ s.ovfidx = 0#16 ∧ ¬(overHigh ∧ s.qcount ≠ 0#16)) → warnLow = []))

/-- ENQ "talks to the engine not at all. The only events are PEND, DIAG, RESP" (R152), whatever its operands and the state. -/
def Obligations.EnqTalksToNoEngine : Prop :=
  ∀ (cls : DestClass) (src : SrcAddr) (dst len step : Half) (s t : State),
    exec (.enq cls src dst len step) s = .next t →
    t.env = { s.env with pending := t.env.pending } ∧
    ∃ evs : List Event, t.trace = s.trace ++ evs ∧
      ∀ e ∈ evs, e = .pend ∨ (∃ d, e = .diag d) ∨ e = .resp t.resp

/-- A recorded overflow index is "never reset except by clearQueue" (R160 item 4), by FLUSH's clear and by INIT, and never
replaced by another. -/
def Obligations.OverflowIndexStaysUntilCleared : Prop :=
  ∀ (i : Instr) (s t : State), exec i s = .next t → s.ovfidx ≠ 0#16 →
    t.ovfidx = s.ovfidx ∨ (t.ovfidx = 0#16 ∧ (i = .clrq ∨ i = .flush ∨ ∃ cap budget, i = .init cap budget))

/-! ### Flush engine (42_flush_engine.md) -/

/-- R180 to R184: with the engine busy FLUSH waits and has done nothing; with the engine idle, and its Halts returning, it emits
exactly WAIT, GETSTEP, the replay of slots 0 .. replayCount − 1 in order in the manner HWXFER and HALT_SCOPE select, SETSTEP of
the saved value, RESP; it leaves the auto-increment and the bus as found, clears the counters, and changes no slot. The engine's
answers to the triggers are log 3's, the coprocessor's to the Halts log 16's; that each next W1 is written whatever the engine is
doing is log 22. -/
def Obligations.FlushReplaysTheQueueAndClearsIt : Prop :=
  ∀ s : State,
    let n : Nat := if s.ovfidx ≠ 0#16 ∧ s.ignover = true then s.ovfidx.toNat else s.qcount.toNat
    (s.env.engine ≠ .idle → exec .flush s = .next { s with held := some (.start .flush) }) ∧
    (s.env.engine = .idle → HaltsReturn s.env (flushHalts Config.params n) → ∃ t : State, exec .flush s = .next t ∧
      t.trace = s.trace ++ ([.wait, .getStep s.env.autoStep] ++ replayEvents Config.params s (firstSlots s n) ++
        [.setStep s.env.autoStep, .resp 1#32]) ∧
      t.qcount = 0#16 ∧ t.ovfidx = 0#16 ∧ t.qbytes = 0#32 ∧ t.resp = 1#32 ∧ SameSetup s t ∧ SameSlots s t ∧
      SameOutside s t ∧ t.held = s.held ∧ t.env.autoStep = s.env.autoStep ∧ t.env.busTaken = s.env.busTaken ∧
      t.env.pending = s.env.pending ∧
      Triggered (hardwareTransfers Config.params n) (flushHalts Config.params n) s.env t.env)

/-- R185, its five properties: QSIZE after FLUSH answers 0; with hardware transfers the CTRL words are the four words of each
replayed slot in order; the trace begins WAIT, GETSTEP v and ends SETSTEP v, RESP 1; every W4 is guarded; no PEND and no
DIAG. (Its Halts return, as R136 assumes.) -/
def Obligations.FlushHasItsFiveProperties : Prop :=
  ∀ s : State, s.env.engine = .idle → HaltsReturn s.env (flushHalts Config.params s.replayCount.toNat) →
    ∃ (evs : List Event) (t u : State), exec .flush s = .next t ∧ t.trace = s.trace ++ evs ∧
      exec .qsize t = .next u ∧ u.resp = 0#32 ∧
      (match Config.params.hwXfer with
        | .enabled =>
          ctrlWords evs =
              (firstSlots s s.replayCount.toNat).flatMap (fun d => [d.w1, d.w2, d.w3, d.w4]) ∧
            (ctrlWords evs).length = 4 * s.replayCount.toNat ∧ triggersGuarded evs = true
        | .disabled => evs.all (fun e => !touchesCoprocessor e) = true) ∧
      (∃ mid : List Event,
        evs = [.wait, .getStep s.env.autoStep] ++ mid ++ [.setStep s.env.autoStep, .resp 1#32]) ∧
      (∀ e ∈ evs, e ≠ .pend ∧ ∀ d, e ≠ .diag d)

/-- U13 within FLUSH: where the coprocessor answers the first k Halts that find its bus not taken and never the next, FLUSH is held
there for good: slots 0 .. k − 1 are replayed, the words of slot k before its trigger are written and its HALT is given; no
counter is cleared and RESP is not written. (In PER_BATCH scope only the batch's first Halt finds the bus not taken, R129; the
copier halts nobody.) How a Halt that never returns is held is log 16. -/
def Obligations.FlushHangsInAHaltThatNeverReturns : Prop :=
  ∀ (s : State) (k : Nat),
    let n : Nat := if s.ovfidx ≠ 0#16 ∧ s.ignover = true then s.ovfidx.toNat else s.qcount.toNat
    s.env.engine = .idle → s.env.busTaken = false → k < n → HaltsReturn s.env k → s.env.releases[k]? = some .never →
    ∃ t : State, exec .flush s = .next t ∧
      (k < flushHalts Config.params n →
        HungInHalt s t
          ([.wait, .getStep s.env.autoStep] ++ (firstSlots s k).flatMap (perTriggerEvents false) ++
            [.cw32 (s.slot k).w1, .cw32 (s.slot k).w2, .cw32 (s.slot k).w3, .taken false]))

/-- The busy hazard, R279 with D26's premise ("a source-memory transfer is over, or the port stalls, before the next W1"): under the
premise no FLUSH begins a transfer while the engine is busy with another; without it, with hardware transfers, a FLUSH does; and
nothing but FLUSH ever does, since XFER (each segment), FILL and COPY wait first. The premise in the model's terms, and the record
`overrun`, are log 22. -/
def Obligations.BusyHazardIsFlushWithoutItsPremise : Prop :=
  (∀ s : State,
    let n : Nat := if s.ovfidx ≠ 0#16 ∧ s.ignover = true then s.ovfidx.toNat else s.qcount.toNat
    (∀ t : State, TransfersOverByNextW1 s.env n → exec .flush s = .next t → t.env.overrun = s.env.overrun) ∧
    (s.env.engine = .idle → HaltsReturn s.env (flushHalts Config.params n) → ¬TransfersOverByNextW1 s.env n →
      ∃ t : State, exec .flush s = .next t ∧
        t.env.overrun = match Config.params.hwXfer with
          | .enabled => true
          | .disabled => s.env.overrun)) ∧
  (∀ (i : Instr) (s t : State), i ≠ .flush → exec i s = .next t → t.env.overrun = s.env.overrun) ∧
  (∀ (cls : DestClass) (low : Segment) (stp : Half) (s t : State),
    resumeHeld (.lowSegment cls low stp) s = .next t → t.env.overrun = s.env.overrun)

/-! ### The halt (20_memory.md R62, 93_implementation_defined.md U13) -/

/-- R62: `Halt()` gives its signal and "returns once the bus is released"; then the bus is taken and what comes after it goes on.
Where it was taken already nothing else changes. Where the bus is never released nothing comes after it (U13). The coprocessor's
answers, and that the engine moves meanwhile, are log 16. -/
def Obligations.HaltReturnsOnceTheBusIsReleased : Prop :=
  ∀ (s : State) (after : State → State),
    (s.env.busTaken = true → haltCoprocessor after s = after { s with trace := s.trace ++ [.halt] }) ∧
    (∀ (n : Nat) (rest : List Release), s.env.busTaken = false → s.env.releases = .after n :: rest →
      ∃ e : Engine, (s.env.engine = .idle → e = .idle) ∧
        haltCoprocessor after s = after { s with
          trace := s.trace ++ [.halt]
          env := { s.env with busTaken := true, engine := e, releases := rest } }) ∧
    (∀ rest : List Release, s.env.busTaken = false → s.env.releases = .never :: rest →
      haltCoprocessor after s = { s with
        trace := s.trace ++ [.halt]
        env := { s.env with busTaken := true, releases := rest }
        held := some .inHalt })

/-- U13, "stuck, like U7": a command in a Halt that never returns stays there for ever; nothing changes but that the engine goes on
with what it was doing. -/
def Obligations.NeverReturningHaltHangsTheCommand : Prop :=
  ∀ (s : State) (n : Nat), s.held = some .inHalt →
    ∃ e : Engine, Host.Core.run Sys2Proof.core n s = .next { s with env := { s.env with engine := e } }

/-! ### The wait (20_memory.md R58, 60_exceptions.md R243) -/

/-- R243: a run in which the engine never becomes idle goes on for ever with nothing changing; it is no fault. -/
def Obligations.NeverIdleEngineHangsTheCommand : Prop :=
  ∀ (s : State) (h : Held) (n : Nat), s.held = some h → s.env.engine = .never →
    Host.Core.run Sys2Proof.core n s = .next s

/-- What lifts a hold is the engine: busy for n + 1 more turns, it is idle after n + 1 steps with nothing else changed, and the next
step goes on with what is held. (The count of turns is the model's, log 3; a Halt that never returns is not lifted by it, log
16.) -/
def Obligations.BusyEngineLetsTheCommandGoOn : Prop :=
  ∀ (s : State) (h : Held) (n : Nat), s.held = some h → s.env.engine = .busy n →
    Host.Core.run Sys2Proof.core (n + 1) s = .next { s with env := { s.env with engine := .idle } } ∧
    step { s with env := { s.env with engine := .idle } } =
      resumeHeld h { s with held := none, env := { s.env with engine := .idle } }

/-- A command held at its first WaitIdle runs from its beginning once the engine is idle. -/
def Obligations.HeldCommandRunsOnceTheEngineIsIdle : Prop :=
  ∀ (s : State) (i : Instr), s.held = some (.start i) → s.env.engine = .idle → step s = exec i { s with held := none }

/-! ### Direct transfers and the copier (43_direct_transfer.md, 44_software_fallback.md) -/

/-- XFER of a request that does not cross, the engine idle and its Halt returning: WAIT, the one segment, RESP; the queue untouched;
with hardware transfers the engine started, once (log 3). -/
def Obligations.XferIssuesAWholeRequest : Prop :=
  ∀ (cls : DestClass) (src : SrcAddr) (dst len step : Half) (s : State), srcEven src = true →
    2 * len.toNat ≤ 0x20000 - src.toNat % 0x20000 → s.env.engine = .idle →
    HaltsReturn s.env (hardwareTransfers Config.params 1) →
    ∃ t : State, exec (.xfer cls src dst len step) s = .next t ∧
      t.trace = s.trace ++ ([.wait] ++
        segmentEvents Config.params s.srcMem s.env.busTaken s.env.autoStep cls
          { src := src.setWidth 25, dst := dst, len := len } step ++ [.resp 1#32]) ∧
      t.resp = 1#32 ∧ SameQueue s t ∧ SameOutside s t ∧ t.held = s.held ∧ t.env.busTaken = s.env.busTaken ∧
      t.env.pending = s.env.pending ∧
      Triggered (hardwareTransfers Config.params 1) (hardwareTransfers Config.params 1) s.env t.env

/-- XFER of a crossing request, the engine idle before it and, with hardware transfers, after the next trigger, and its Halts
returning: WAIT, the high segment with the step left alone, WAIT, the low segment with the requested step, RESP (R200, R201, R202
case 1); the queue untouched; with hardware transfers the engine started twice (log 3). -/
def Obligations.XferIssuesACrossingRequestHighFirst : Prop :=
  ∀ (cls : DestClass) (src : SrcAddr) (dst len step : Half) (s : State), srcEven src = true →
    0x20000 - src.toNat % 0x20000 < 2 * len.toNat → s.env.engine = .idle →
    (Config.params.hwXfer = .enabled → s.env.afterNextTrigger = .idle) →
    HaltsReturn s.env (hardwareTransfers Config.params 2) →
    ∃ (low high : Segment) (t : State), decompose src dst len = .split low high ∧
      exec (.xfer cls src dst len step) s = .next t ∧
      (let between : Half := match Config.params.hwXfer with
        | .enabled => stepAfterW2 Config.params (packMid high.src s.env.autoStep) s.env.autoStep
        | .disabled => s.env.autoStep
       t.trace = s.trace ++ ([.wait] ++
        segmentEvents Config.params s.srcMem s.env.busTaken s.env.autoStep cls high 0xFFFF#16 ++ [.wait] ++
        segmentEvents Config.params s.srcMem s.env.busTaken between cls low step ++ [.resp 1#32])) ∧
      t.resp = 1#32 ∧ SameQueue s t ∧ SameOutside s t ∧ t.held = s.held ∧ t.env.busTaken = s.env.busTaken ∧
      t.env.pending = s.env.pending ∧
      Triggered (hardwareTransfers Config.params 2) (hardwareTransfers Config.params 2) s.env t.env

/-- XFER of a crossing request whose high segment leaves the engine busy: with hardware transfers it is held at its second WaitIdle,
the high segment issued and RESP not yet written; the copier starts no engine (log 3), and there both segments go out and the
command ends. -/
def Obligations.XferIsHeldBetweenItsSegments : Prop :=
  ∀ (cls : DestClass) (src : SrcAddr) (dst len step : Half) (s : State), srcEven src = true →
    0x20000 - src.toNat % 0x20000 < 2 * len.toNat → s.env.engine = .idle → s.env.afterNextTrigger ≠ .idle →
    HaltsReturn s.env (hardwareTransfers Config.params 1) →
    ∃ (low high : Segment) (t : State), decompose src dst len = .split low high ∧
      exec (.xfer cls src dst len step) s = .next t ∧ SameQueue s t ∧ SameOutside s t ∧
      t.env.busTaken = s.env.busTaken ∧ t.env.pending = s.env.pending ∧
      Triggered (hardwareTransfers Config.params 1) (hardwareTransfers Config.params 1) s.env t.env ∧
      match Config.params.hwXfer with
      | .enabled =>
        t.held = some (.lowSegment cls low step) ∧ t.resp = s.resp ∧
        t.trace = s.trace ++ ([.wait] ++
          segmentEvents Config.params s.srcMem s.env.busTaken s.env.autoStep cls high 0xFFFF#16)
      | .disabled =>
        t.held = s.held ∧ t.resp = 1#32 ∧
        t.trace = s.trace ++ ([.wait] ++
          segmentEvents Config.params s.srcMem s.env.busTaken s.env.autoStep cls high 0xFFFF#16 ++ [.wait] ++
          segmentEvents Config.params s.srcMem s.env.busTaken s.env.autoStep cls low step ++ [.resp 1#32])

/-- The low segment of a held XFER goes out, after its own WAIT, once the engine is idle, and ends the command, its Halt returning:
the bus, the pending flag and the queue as before, the engine started once with hardware transfers (log 3), the auto-increment at
the step, or under the sentinel as it was (both for one byte, U4). -/
def Obligations.HeldXferIssuesItsLowSegment : Prop :=
  ∀ (cls : DestClass) (low : Segment) (stp : Half) (s : State),
    s.held = some (.lowSegment cls low stp) → s.env.engine = .idle →
    HaltsReturn s.env (hardwareTransfers Config.params 1) →
    ∃ t : State, step s = .next t ∧
      t.trace = s.trace ++ ([.wait] ++
        segmentEvents Config.params s.srcMem s.env.busTaken s.env.autoStep cls low stp ++ [.resp 1#32]) ∧
      t.resp = 1#32 ∧ t.held = none ∧ SameQueue s t ∧ SameOutside s t ∧ t.env.busTaken = s.env.busTaken ∧
      t.env.pending = s.env.pending ∧
      Triggered (hardwareTransfers Config.params 1) (hardwareTransfers Config.params 1) s.env t.env ∧
      (stp.toNat ≤ 0xFF → t.env.autoStep = stp) ∧
      (stp = 0xFFFF#16 → s.env.autoStep.toNat ≤ 0xFF → t.env.autoStep = s.env.autoStep)

/-- U13 within XFER, the engine idle: a whole request, or the high segment of a crossing one, whose Halt never returns, is held there
for good, its words before the trigger written and its HALT given; so is the low segment, of a crossing request that gets so far
in one go, and of one that was held before it. RESP is not written. The copier halts nobody, and there the command ends. How a Halt
that never returns is held is log 16. -/
def Obligations.XferHangsInAHaltThatNeverReturns : Prop :=
  (∀ (cls : DestClass) (src : SrcAddr) (dst len step : Half) (s : State), srcEven src = true → s.env.engine = .idle →
    ¬HaltsReturn s.env 1 →
    ∃ t : State, exec (.xfer cls src dst len step) s = .next t ∧
      (match Config.params.hwXfer, decompose src dst len with
        | .enabled, .whole seg =>
          HungInHalt s t
            ([.wait] ++ beforeHalt (segmentEvents Config.params s.srcMem false s.env.autoStep cls seg step))
        | .enabled, .split _ high =>
          HungInHalt s t
            ([.wait] ++ beforeHalt (segmentEvents Config.params s.srcMem false s.env.autoStep cls high 0xFFFF#16))
        | .disabled, _ => t.held = s.held ∧ t.resp = 1#32)) ∧
  (∀ (cls : DestClass) (src : SrcAddr) (dst len step : Half) (low high : Segment) (s : State), srcEven src = true →
    decompose src dst len = .split low high → s.env.engine = .idle → s.env.afterNextTrigger = .idle →
    HaltsReturn s.env 1 → ¬HaltsReturn s.env 2 →
    ∃ t : State, exec (.xfer cls src dst len step) s = .next t ∧
      match Config.params.hwXfer with
      | .enabled =>
        HungInHalt s t
          ([.wait] ++ segmentEvents Config.params s.srcMem false s.env.autoStep cls high 0xFFFF#16 ++ [.wait] ++
            beforeHalt (segmentEvents Config.params s.srcMem false
              (stepAfterW2 Config.params (packMid high.src s.env.autoStep) s.env.autoStep) cls low step))
      | .disabled => t.held = s.held ∧ t.resp = 1#32) ∧
  (∀ (cls : DestClass) (low : Segment) (stp : Half) (s : State),
    s.held = some (.lowSegment cls low stp) → s.env.engine = .idle → ¬HaltsReturn s.env 1 →
    ∃ t : State, step s = .next t ∧
      match Config.params.hwXfer with
      | .enabled =>
        HungInHalt s t
          ([.wait] ++ beforeHalt (segmentEvents Config.params s.srcMem false s.env.autoStep cls low stp))
      | .disabled => t.held = none ∧ t.resp = 1#32)

/-- R204, in both values of HWXFER: with the engine busy FILL waits and has done nothing; with the engine idle and its Halt returning
its exact events, the step it leaves (R281), the engine started (log 3), the bus given back, the queue untouched; where its Halt
never returns it is held there for good (U13, log 16). That a step above 0xFF is kept whole is log 23. -/
def Obligations.FillIssuesItsSequence : Prop :=
  ∀ (dst len : Half) (val : Byte) (step : Half) (s : State),
    let head : List Event := [.wait] ++ (if step = 0xFFFF#16 then [] else [.setStep step]) ++
      [.cw32 (packLen (fillAdjust dst len)), .cw16 0x9780#16, .taken s.env.busTaken]
    (s.env.engine ≠ .idle →
      exec (.fill dst len val step) s = .next { s with held := some (.start (.fill dst len val step)) }) ∧
    (s.env.engine = .idle → HaltsReturn s.env 1 → ∃ t : State, exec (.fill dst len val step) s = .next t ∧
      t.trace = s.trace ++ (head ++ [.halt, .cw32 (Config.params.fillTrigWord dst), .dw16 (val ++ val)] ++
        resumeEvents s.env.busTaken ++ [.resp 1#32]) ∧
      t.env.autoStep = (if step = 0xFFFF#16 then s.env.autoStep else step) ∧
      t.resp = 1#32 ∧ SameQueue s t ∧ SameOutside s t ∧ t.held = s.held ∧ t.env.busTaken = s.env.busTaken ∧
      t.env.pending = s.env.pending ∧ Triggered 1 1 s.env t.env) ∧
    (s.env.engine = .idle → ¬HaltsReturn s.env 1 → ∃ t : State, exec (.fill dst len val step) s = .next t ∧
      HungInHalt s t head)

/-- R206, in both values of HWXFER: with the engine busy COPY waits and has done nothing; with the engine idle and its Halt returning
its exact events, the engine started (log 3), the bus given back, the queue untouched; where its Halt never returns it is held there
for good (U13, log 16). -/
def Obligations.CopyIssuesItsSequence : Prop :=
  ∀ (srcoff dst len step : Half) (s : State),
    let eff : Half := if step = 0xFFFF#16 then s.env.autoStep else step
    let a : SegAddr := srcoff.setWidth 25 <<< 1
    let head : List Event := [.wait] ++ stepEvents s.env.autoStep step ++
      [.cw32 (packLen len), .cw32 (packMid a eff), .cw32 (packHiLo a), .cw16 0x97C0#16, .taken s.env.busTaken]
    (s.env.engine ≠ .idle →
      exec (.copy srcoff dst len step) s = .next { s with held := some (.start (.copy srcoff dst len step)) }) ∧
    (s.env.engine = .idle → HaltsReturn s.env 1 → ∃ t : State, exec (.copy srcoff dst len step) s = .next t ∧
      t.trace = s.trace ++ (head ++ [.halt, .cw32 (Config.params.copyTrigWord dst)] ++
        resumeEvents s.env.busTaken ++ [.resp 1#32]) ∧
      t.resp = 1#32 ∧ SameQueue s t ∧ SameOutside s t ∧ t.held = s.held ∧ t.env.busTaken = s.env.busTaken ∧
      t.env.pending = s.env.pending ∧ Triggered 1 1 s.env t.env) ∧
    (s.env.engine = .idle → ¬HaltsReturn s.env 1 → ∃ t : State, exec (.copy srcoff dst len step) s = .next t ∧
      HungInHalt s t head)

/-- SWCOPY of an even source address (R230, R231), whatever the engine is doing: SETSTEP, the trigger command word, then len pairs
of a source read and its DATA write at src, src + 2, ... modulo 2^24; the auto-increment stays at step. That the trigger command
leaves the engine as it was is log 3, that a step above 0xFF is kept whole log 23. -/
def Obligations.SwcopyCopiesWordByWord : Prop :=
  ∀ (trig : Word) (src : SrcAddr) (len step : Half) (s : State), srcEven src = true →
    ∃ t : State, exec (.swcopy trig src len step) s = .next t ∧
      t.trace = s.trace ++ (copierEvents Config.params s.srcMem trig src len step ++ [.resp 1#32]) ∧
      t.env = { s.env with autoStep := step } ∧ t.resp = 1#32 ∧ SameQueue s t ∧ SameOutside s t ∧ t.held = s.held

/-- R281, R202 case 2: a direct operation that ends leaves the auto-increment at its step; under the sentinel, at what it was. Both for
a step of one byte, beyond which the engine's reading of W2 is open (U4). -/
def Obligations.DirectOperationsLeaveTheirStep : Prop :=
  ∀ (i : Instr) (stp : Half) (s t : State),
    ((∃ cls src dst len, i = .xfer cls src dst len stp ∧ srcEven src = true) ∨ (∃ dst len val, i = .fill dst len val stp) ∨
      (∃ srcoff dst len, i = .copy srcoff dst len stp)) →
    s.held = none → exec i s = .next t → t.held = none →
    (stp.toNat ≤ 0xFF → t.env.autoStep = stp) ∧
    (stp = 0xFFFF#16 → s.env.autoStep.toNat ≤ 0xFF → t.env.autoStep = s.env.autoStep)

/-! ### Register Port words -/

/-- A port word that arrives by the host's own means is one port write and nothing else, but that a W2 may set the auto-increment to
its step (R59) and a W4 starts the engine (R14). That they are instructions at all is the model's choice, log 11. -/
def Obligations.PortWordsAreOneWrite : Prop :=
  ∀ s : State,
    (∀ len : Half, exec (.w1Length len) s = .next { s with
      trace := s.trace ++ [.cw32 (0x94#8 ++ len.extractLsb' 8 8 ++ 0x93#8 ++ len.extractLsb' 0 8)] }) ∧
    (∀ mid stp : Byte, ∃ v : Half, (v = s.env.autoStep ∨ v = stp.setWidth 16) ∧
      exec (.w2MidStep mid stp) s = .next { s with
        trace := s.trace ++ [.cw32 (0x96#8 ++ mid ++ 0x8F#8 ++ stp)]
        env := { s.env with autoStep := v } }) ∧
    (∀ (hi : BitVec 7) (lo : Byte), exec (.w3HiLo hi lo) s = .next { s with
      trace := s.trace ++ [.cw32 (0x97#8 ++ 0#1 ++ hi ++ 0x95#8 ++ lo)] }) ∧
    (∀ w : Word, exec (.w4Trigger w) s = .next { s with
      trace := s.trace ++ [.cw32 w]
      env := { s.env with engine := s.env.afterNextTrigger, afterTrigger := s.env.afterTrigger.tail } }) ∧
    exec .fillSuffix s = .next { s with trace := s.trace ++ [.cw16 0x9780#16] } ∧
    exec .copySuffix s = .next { s with trace := s.trace ++ [.cw16 0x97C0#16] } ∧
    (∀ val : Byte, exec (.fillData val) s = .next { s with trace := s.trace ++ [.dw16 (val ++ val)] })

/-! ### Rules of the whole machine -/

/-- R40: which instruction may write which state. (INIT is let off for the slots: their contents are unspecified after it, R150,
log 8.) -/
def Obligations.OnlyTheListedCommandsWriteEachRegister : Prop :=
  ∀ (i : Instr) (s t : State), exec i s = .next t →
    (t.cap = s.cap ∧ t.budget = s.budget ∨ ∃ cap budget, i = .init cap budget) ∧
    (t.cfg = s.cfg ∨ ∃ autoflush ignover, i = .setcfg autoflush ignover) ∧
    (SameCounters s t ∨ i = .clrq ∨ i = .flush ∨ (∃ cap budget, i = .init cap budget) ∨
      ∃ cls src dst len stp, i = .enq cls src dst len stp) ∧
    (SameSlots s t ∨ (∃ cap budget, i = .init cap budget) ∨ ∃ cls src dst len stp, i = .enq cls src dst len stp) ∧
    (t.resp = s.resp ∨ i.isCommand = true)

/-- R31: a command that ends has written RESP as its last action, and once. -/
def Obligations.EveryCommandEndsByWritingResp : Prop :=
  ∀ (i : Instr) (s t : State), i.isCommand = true → s.held = none → exec i s = .next t → t.held = none →
    ∃ evs : List Event, t.trace = s.trace ++ (evs ++ [.resp t.resp]) ∧ ∀ e ∈ evs, ∀ v, e ≠ .resp v

/-- R100: RESP's value, by command, of a command that ends. The lines of ENQ, XFER and SWCOPY with an odd source address are of terms
no packet decodes to: that their meanings answer a BadCommand there too is the model's reading, log 18. -/
def Obligations.RespValuesPerCommand : Prop :=
  ∀ (i : Instr) (s t : State), i.isCommand = true → s.held = none → exec i s = .next t → t.held = none →
    match i with
    | .enq _ src _ _ _ => (srcEven src = true → t.resp = 0#32 ∨ t.resp = 1#32) ∧ (srcEven src = false → t.resp = 0#32)
    | .qsize => t.resp = s.qcount.setWidth 32
    | .qbytes => t.resp = s.qbytes
    | .qovf => t.resp = s.ovfidx.setWidth 32
    | .xfer _ src _ _ _ => t.resp = if srcEven src then 1#32 else 0#32
    | .swcopy _ src _ _ => t.resp = if srcEven src then 1#32 else 0#32
    | _ => t.resp = 1#32

/-- R52: no instruction writes source memory, nor does going on with a held one. -/
def Obligations.NoCommandWritesSourceMemory : Prop :=
  ∀ (s t : State), (∃ i, exec i s = .next t) ∨ (∃ h, resumeHeld h s = .next t) → SameSource s t

/-- R287: FLUSH, XFER, FILL and COPY are each held while the engine is not idle, with nothing of them done and so RESP not written;
no other command is ever held. That the seven port words are instructions, never held, is log 11; that a term XFER of an odd source
address is refused before its wait is log 18. -/
def Obligations.OnlyFourCommandsCanBeHeld : Prop :=
  ∀ (i : Instr) (s : State),
    let mayWait : Prop := i = .flush ∨ (∃ cls src dst len stp, i = .xfer cls src dst len stp ∧ srcEven src = true) ∨
      (∃ dst len val stp, i = .fill dst len val stp) ∨ ∃ srcoff dst len stp, i = .copy srcoff dst len stp
    (mayWait → s.env.engine ≠ .idle → exec i s = .next { s with held := some (.start i) }) ∧
    (¬mayWait → ∃ t : State, exec i s = .next t ∧ t.held = s.held)

/-- R39: after reset CAP, QCOUNT, OVFIDX, QBYTES, BUDGET, CFG and RESP are 0, and the block refuses every ENQ until INIT: it fails
closed. -/
def Obligations.ResetFailsClosed : Prop :=
  State.reset.cap = 0#16 ∧ State.reset.qcount = 0#16 ∧ State.reset.ovfidx = 0#16 ∧ State.reset.qbytes = 0#32 ∧
  State.reset.budget = 0#32 ∧ State.reset.cfg = 0#2 ∧ State.reset.resp = 0#32 ∧
  ∀ (cls : DestClass) (src : SrcAddr) (dst len stp : Half) (s : State), s.cap = 0#16 →
    ∃ t : State, exec (.enq cls src dst len stp) s = .next t ∧ t.resp = 0#32 ∧ SameQueue s t ∧ SameOutside s t

/-- Hardware reset puts every register at its value after reset and touches no collaborator (R270, R271). That it is an input taken
between commands is the model's choice, log 17. -/
def Obligations.HardwareResetTouchesNoCollaborator : Prop :=
  ∀ (s : State) (rest : List Input), s.held = none → s.inputs = .reset :: rest →
    ∃ t : State, step s = .next t ∧
      t.cap = State.reset.cap ∧ t.qcount = State.reset.qcount ∧ t.ovfidx = State.reset.ovfidx ∧
      t.qbytes = State.reset.qbytes ∧ t.budget = State.reset.budget ∧ t.cfg = State.reset.cfg ∧
      t.resp = State.reset.resp ∧ t.held = none ∧ t.env = s.env ∧ SameSource s t ∧ t.trace = s.trace ∧ t.inputs = rest

/-- R38's "nothing outside BTQC can change a stored descriptor", of the model's inputs: what an agent outside does between commands
(log 13), short of a command, a port word and hardware reset, changes no queue state, no response and no trace; a write of source
memory changes the one byte it writes, and the other acts change none. -/
def Obligations.OutsideAgentsCannotTouchTheQueue : Prop :=
  ∀ (s : State) (a : Input) (rest : List Input), s.held = none → s.inputs = a :: rest → Memory.wf s.srcMem = true →
    (∀ f, a ≠ .fetch f) → a ≠ .reset →
    ∃ t : State, step s = .next t ∧ SameQueue s t ∧ t.resp = s.resp ∧ t.trace = s.trace ∧ t.held = none ∧ t.inputs = rest ∧
      (∀ (adr : SrcAddr) (b : Byte), a = .srcWrite adr b →
        Memory.read t.srcMem adr.toNat = b ∧
          ∀ k : Nat, k ≠ adr.toNat → Memory.read t.srcMem k = Memory.read s.srcMem k) ∧
      ((∀ (adr : SrcAddr) (b : Byte), a ≠ .srcWrite adr b) → SameSource s t)

/-- The queue invariants of R29 are kept by every step, from every state that has them. -/
def Obligations.EveryStepKeepsTheQueueInvariants : Prop :=
  ∀ s t : State, QueueInv s → step s = .next t → QueueInv t

/-- The queue invariants of R29 hold after reset. -/
def Obligations.QueueInvariantsHoldAfterReset : Prop := QueueInv State.reset

/-- Source memory and the queue store keep their canonical forms under every step (the model's own, log 8, log 9). -/
def Obligations.EveryStepKeepsTheCanonicalForms : Prop :=
  ∀ s t : State, CanonicalForms s → step s = .next t → CanonicalForms t

/-- Source memory and the queue store are in canonical form after reset (the model's own, log 8, log 9). -/
def Obligations.CanonicalFormsHoldAfterReset : Prop := CanonicalForms State.reset

/-- A step with no command held, when what is handed over next decodes, is exec of the decoded instruction, which is well formed,
with the input taken from the list. -/
def Obligations.StepRunsTheDecodedInstruction : Prop :=
  ∀ (s : State) (f : Fetched) (rest : List Input) (i : Instr),
    s.held = none → s.inputs = .fetch f :: rest → decode f = .ok i →
      i.wellFormed = true ∧ step s = exec i { s with inputs := rest }

/-- No state and no other event depends on the diagnostics (R64): ENQ in an implementation that emits them and in one that does not
end in the same state but for the DIAG events of the trace, and so does a raised condition. -/
def Obligations.DiagnosticsAreAdvisory : Prop :=
  ∀ (p : Params) (b : Bool) (s : State),
    (∀ (cls : DestClass) (src : SrcAddr) (dst len stp : Half),
      let t := enqueue p cls src dst len stp s
      let u := enqueue { p with diagnostics := b } cls src dst len stp s
      u = { t with trace := u.trace } ∧ withoutDiag u.trace = withoutDiag t.trace) ∧
    (∀ c : Condition,
      let t := raise p c s
      let u := raise { p with diagnostics := b } c s
      u = { t with trace := u.trace } ∧ withoutDiag u.trace = withoutDiag t.trace)

/-- R131: in the events of every command that triggers hardware, whatever the state, every trigger word is written just after a HALT;
a command whose data the copier moves does not touch the secondary coprocessor. The same of the low segment of a held XFER. -/
def Obligations.EveryTriggerIsGuarded : Prop :=
  (∀ (i : Instr) (s t : State), i.isCommand = true → exec i s = .next t →
    ∃ evs : List Event, t.trace = s.trace ++ evs ∧
      (if usesCopier Config.params i then evs.all (fun e => !touchesCoprocessor e) else triggersGuarded evs) = true) ∧
  (∀ (cls : DestClass) (low : Segment) (stp : Half) (s t : State), resumeHeld (.lowSegment cls low stp) s = .next t →
    ∃ evs : List Event, t.trace = s.trace ++ evs ∧
      (if Config.params.hwXfer = .disabled then evs.all (fun e => !touchesCoprocessor e) else triggersGuarded evs) = true)

/-- R128 with D16: "BTQC gives back only what it took": after any command, ended or held at a WaitIdle, and after going on with any
held one, the secondary coprocessor's bus is taken just where it was before. Only a Halt that never returns leaves it asked for
(U13, log 16). -/
def Obligations.TheBusIsGivenBackAsFound : Prop :=
  ∀ (s t : State), (∃ i, exec i s = .next t) ∨ (∃ h, resumeHeld h s = .next t) →
    t.env.busTaken = s.env.busTaken ∨
      (s.env.busTaken = false ∧ t.env.busTaken = true ∧ t.held = some .inHalt ∧ t.trace.getLast? = some .halt)
end

