-- ==== Sys2Proof/Laws/Encoding.lean ====
section
/-!
SUPPORT. The small lemmas of the packet format (30_encoding.md R91): a packed packet has the fields it was packed from, and a
word is its fields put together again.
-/

namespace Sys2Proof

open BitVec

section Fields

variable (op : Byte) (src : SrcAddr) (dst len step : Half) (val : Byte) (cls : BitVec 2) (aux : Word)

/-- A packet as `Packet.pack` lays it out. -/
def packed (op : Byte) (src : SrcAddr) (dst len step : Half) (val : Byte) (cls : BitVec 2) (aux : Word) : Packet :=
  { p0 := op ++ src, p1 := dst ++ len, p2 := step ++ (val ++ (0#6 ++ cls)), p3 := aux }

theorem pack_eq : Packet.pack op src dst len step val cls aux = .packet (packed op src dst len step val cls aux) := rfl

@[simp] theorem packed_op : (packed op src dst len step val cls aux).op = op := extractLsb'_append_eq_left

@[simp] theorem packed_src : (packed op src dst len step val cls aux).src = src := extractLsb'_append_eq_right

@[simp] theorem packed_dst : (packed op src dst len step val cls aux).dst = dst := extractLsb'_append_eq_left

@[simp] theorem packed_len : (packed op src dst len step val cls aux).len = len := extractLsb'_append_eq_right

@[simp] theorem packed_step : (packed op src dst len step val cls aux).step = step := extractLsb'_append_eq_left

@[simp] theorem packed_val : (packed op src dst len step val cls aux).val = val :=
  (extractLsb'_append_eq_of_add_le (by omega)).trans extractLsb'_append_eq_left

@[simp] theorem packed_zero6 : (packed op src dst len step val cls aux).zero6 = 0#6 :=
  (extractLsb'_append_eq_of_add_le (by omega)).trans
    ((extractLsb'_append_eq_of_add_le (by omega)).trans extractLsb'_append_eq_left)

@[simp] theorem packed_cls : (packed op src dst len step val cls aux).cls = cls :=
  (extractLsb'_append_eq_of_add_le (by omega)).trans
    ((extractLsb'_append_eq_of_add_le (by omega)).trans extractLsb'_append_eq_right)

@[simp] theorem packed_aux : (packed op src dst len step val cls aux).aux = aux := rfl

end Fields

theorem word_of_8_24 (w : Word) : w.extractLsb' 24 8 ++ w.extractLsb' 0 24 = w :=
  (extractLsb'_append_extractLsb'_eq_extractLsb' (by omega : 24 = 0 + 24)).trans extractLsb'_eq_self

theorem word_of_16_16 (w : Word) : w.extractLsb' 16 16 ++ w.extractLsb' 0 16 = w :=
  (extractLsb'_append_extractLsb'_eq_extractLsb' (by omega : 16 = 0 + 16)).trans extractLsb'_eq_self

theorem word_of_16_8_6_2 (w : Word) :
    w.extractLsb' 16 16 ++ (w.extractLsb' 8 8 ++ (w.extractLsb' 2 6 ++ w.extractLsb' 0 2)) = w := by
  have h1 : w.extractLsb' 2 6 ++ w.extractLsb' 0 2 = w.extractLsb' 0 8 :=
    extractLsb'_append_extractLsb'_eq_extractLsb' (by omega : 2 = 0 + 2)
  have h2 : w.extractLsb' 8 8 ++ w.extractLsb' 0 8 = w.extractLsb' 0 16 :=
    extractLsb'_append_extractLsb'_eq_extractLsb' (by omega : 8 = 0 + 8)
  rw [h1, h2]
  exact word_of_16_16 w

/-- A packet whose six zero bits are zero is the packing of its own fields. -/
theorem packed_fields (p : Packet) (h : p.zero6 = 0#6) :
    packed p.op p.src p.dst p.len p.step p.val p.cls p.aux = p := by
  have h2 := word_of_16_8_6_2 p.p2
  rw [show p.p2.extractLsb' 2 6 = 0#6 from h] at h2
  cases p
  simp only [packed, Packet.op, Packet.src, Packet.dst, Packet.len, Packet.step, Packet.val, Packet.cls, Packet.aux,
    word_of_8_24, word_of_16_16] at *
  simpa using h2

/-- CLS of a class names the class (R93). -/
@[simp] theorem ofField_toField (cls : DestClass) : DestClass.ofField cls.toField = some cls := by
  cases cls <;> rfl

/-- A packet is its 128-bit number taken apart (R91). -/
@[simp] theorem ofBits_bits (p : Packet) : Packet.ofBits p.bits = p := by
  have e3 : p.bits.extractLsb' 96 32 = p.p0 := extractLsb'_append_eq_left
  have e2 : p.bits.extractLsb' 64 32 = p.p1 :=
    (extractLsb'_append_eq_of_add_le (by omega)).trans extractLsb'_append_eq_left
  have e1 : p.bits.extractLsb' 32 32 = p.p2 :=
    (extractLsb'_append_eq_of_add_le (by omega)).trans
      ((extractLsb'_append_eq_of_add_le (by omega)).trans extractLsb'_append_eq_left)
  have e0 : p.bits.extractLsb' 0 32 = p.p3 :=
    (extractLsb'_append_eq_of_add_le (by omega)).trans
      ((extractLsb'_append_eq_of_add_le (by omega)).trans extractLsb'_append_eq_right)
  simp [Packet.ofBits, e0, e1, e2, e3]

end Sys2Proof
end

