-- ==== Sys2Proof/Laws/State.lean ====
section
/-!
SUPPORT. One lemma per field per basic update of State, each true by rfl, so that no later proof unfolds a record update.
-/

namespace Sys2Proof.Machine

open Sys2Proof

variable (s : State)

/-! ### One event appended to the trace. -/

@[simp] theorem emit_cap (e : Event) : (s.emit e).cap = s.cap := rfl
@[simp] theorem emit_qcount (e : Event) : (s.emit e).qcount = s.qcount := rfl
@[simp] theorem emit_ovfidx (e : Event) : (s.emit e).ovfidx = s.ovfidx := rfl
@[simp] theorem emit_qbytes (e : Event) : (s.emit e).qbytes = s.qbytes := rfl
@[simp] theorem emit_budget (e : Event) : (s.emit e).budget = s.budget := rfl
@[simp] theorem emit_cfg (e : Event) : (s.emit e).cfg = s.cfg := rfl
@[simp] theorem emit_resp (e : Event) : (s.emit e).resp = s.resp := rfl
@[simp] theorem emit_slots (e : Event) : (s.emit e).slots = s.slots := rfl
@[simp] theorem emit_slotGen (e : Event) : (s.emit e).slotGen = s.slotGen := rfl
@[simp] theorem emit_held (e : Event) : (s.emit e).held = s.held := rfl
@[simp] theorem emit_inputs (e : Event) : (s.emit e).inputs = s.inputs := rfl
@[simp] theorem emit_trace (e : Event) : (s.emit e).trace = s.trace ++ [e] := rfl
@[simp] theorem emit_env (e : Event) : (s.emit e).env = s.env := rfl
@[simp] theorem emit_srcMem (e : Event) : (s.emit e).srcMem = s.srcMem := rfl
@[simp] theorem emit_slot (e : Event) (i : Nat) : (s.emit e).slot i = s.slot i := rfl

/-! ### The collaborators replaced. -/

@[simp] theorem withEnv_cap (v : Env) : (s.withEnv v).cap = s.cap := rfl
@[simp] theorem withEnv_qcount (v : Env) : (s.withEnv v).qcount = s.qcount := rfl
@[simp] theorem withEnv_ovfidx (v : Env) : (s.withEnv v).ovfidx = s.ovfidx := rfl
@[simp] theorem withEnv_qbytes (v : Env) : (s.withEnv v).qbytes = s.qbytes := rfl
@[simp] theorem withEnv_budget (v : Env) : (s.withEnv v).budget = s.budget := rfl
@[simp] theorem withEnv_cfg (v : Env) : (s.withEnv v).cfg = s.cfg := rfl
@[simp] theorem withEnv_resp (v : Env) : (s.withEnv v).resp = s.resp := rfl
@[simp] theorem withEnv_slots (v : Env) : (s.withEnv v).slots = s.slots := rfl
@[simp] theorem withEnv_slotGen (v : Env) : (s.withEnv v).slotGen = s.slotGen := rfl
@[simp] theorem withEnv_held (v : Env) : (s.withEnv v).held = s.held := rfl
@[simp] theorem withEnv_inputs (v : Env) : (s.withEnv v).inputs = s.inputs := rfl
@[simp] theorem withEnv_trace (v : Env) : (s.withEnv v).trace = s.trace := rfl
@[simp] theorem withEnv_env (v : Env) : (s.withEnv v).env = v := rfl
@[simp] theorem withEnv_srcMem (v : Env) : (s.withEnv v).srcMem = s.srcMem := rfl
@[simp] theorem withEnv_slot (v : Env) (i : Nat) : (s.withEnv v).slot i = s.slot i := rfl

/-! ### A descriptor stored. -/

@[simp] theorem storeSlot_cap (i : Nat) (d : Descriptor) : (s.storeSlot i d).cap = s.cap := rfl
@[simp] theorem storeSlot_qcount (i : Nat) (d : Descriptor) : (s.storeSlot i d).qcount = s.qcount := rfl
@[simp] theorem storeSlot_ovfidx (i : Nat) (d : Descriptor) : (s.storeSlot i d).ovfidx = s.ovfidx := rfl
@[simp] theorem storeSlot_qbytes (i : Nat) (d : Descriptor) : (s.storeSlot i d).qbytes = s.qbytes := rfl
@[simp] theorem storeSlot_budget (i : Nat) (d : Descriptor) : (s.storeSlot i d).budget = s.budget := rfl
@[simp] theorem storeSlot_cfg (i : Nat) (d : Descriptor) : (s.storeSlot i d).cfg = s.cfg := rfl
@[simp] theorem storeSlot_resp (i : Nat) (d : Descriptor) : (s.storeSlot i d).resp = s.resp := rfl
@[simp] theorem storeSlot_slots (i : Nat) (d : Descriptor) : (s.storeSlot i d).slots = Slots.write s.slots i d := rfl
@[simp] theorem storeSlot_slotGen (i : Nat) (d : Descriptor) : (s.storeSlot i d).slotGen = s.slotGen := rfl
@[simp] theorem storeSlot_held (i : Nat) (d : Descriptor) : (s.storeSlot i d).held = s.held := rfl
@[simp] theorem storeSlot_inputs (i : Nat) (d : Descriptor) : (s.storeSlot i d).inputs = s.inputs := rfl
@[simp] theorem storeSlot_trace (i : Nat) (d : Descriptor) : (s.storeSlot i d).trace = s.trace := rfl
@[simp] theorem storeSlot_env (i : Nat) (d : Descriptor) : (s.storeSlot i d).env = s.env := rfl
@[simp] theorem storeSlot_srcMem (i : Nat) (d : Descriptor) : (s.storeSlot i d).srcMem = s.srcMem := rfl

/-! ### All slots unspecified. -/

@[simp] theorem forgetSlots_cap : s.forgetSlots.cap = s.cap := rfl
@[simp] theorem forgetSlots_qcount : s.forgetSlots.qcount = s.qcount := rfl
@[simp] theorem forgetSlots_ovfidx : s.forgetSlots.ovfidx = s.ovfidx := rfl
@[simp] theorem forgetSlots_qbytes : s.forgetSlots.qbytes = s.qbytes := rfl
@[simp] theorem forgetSlots_budget : s.forgetSlots.budget = s.budget := rfl
@[simp] theorem forgetSlots_cfg : s.forgetSlots.cfg = s.cfg := rfl
@[simp] theorem forgetSlots_resp : s.forgetSlots.resp = s.resp := rfl
@[simp] theorem forgetSlots_slots : s.forgetSlots.slots = [] := rfl
@[simp] theorem forgetSlots_slotGen : s.forgetSlots.slotGen = s.slotGen + 1 := rfl
@[simp] theorem forgetSlots_held : s.forgetSlots.held = s.held := rfl
@[simp] theorem forgetSlots_inputs : s.forgetSlots.inputs = s.inputs := rfl
@[simp] theorem forgetSlots_trace : s.forgetSlots.trace = s.trace := rfl
@[simp] theorem forgetSlots_env : s.forgetSlots.env = s.env := rfl
@[simp] theorem forgetSlots_srcMem : s.forgetSlots.srcMem = s.srcMem := rfl

/-! ### The three counters cleared. -/

@[simp] theorem clearQueue_cap : (clearQueue s).cap = s.cap := rfl
@[simp] theorem clearQueue_qcount : (clearQueue s).qcount = 0#16 := rfl
@[simp] theorem clearQueue_ovfidx : (clearQueue s).ovfidx = 0#16 := rfl
@[simp] theorem clearQueue_qbytes : (clearQueue s).qbytes = 0#32 := rfl
@[simp] theorem clearQueue_budget : (clearQueue s).budget = s.budget := rfl
@[simp] theorem clearQueue_cfg : (clearQueue s).cfg = s.cfg := rfl
@[simp] theorem clearQueue_resp : (clearQueue s).resp = s.resp := rfl
@[simp] theorem clearQueue_slots : (clearQueue s).slots = s.slots := rfl
@[simp] theorem clearQueue_slotGen : (clearQueue s).slotGen = s.slotGen := rfl
@[simp] theorem clearQueue_held : (clearQueue s).held = s.held := rfl
@[simp] theorem clearQueue_inputs : (clearQueue s).inputs = s.inputs := rfl
@[simp] theorem clearQueue_trace : (clearQueue s).trace = s.trace := rfl
@[simp] theorem clearQueue_env : (clearQueue s).env = s.env := rfl
@[simp] theorem clearQueue_srcMem : (clearQueue s).srcMem = s.srcMem := rfl
@[simp] theorem clearQueue_slot (i : Nat) : (clearQueue s).slot i = s.slot i := rfl

/-! ### The final write of RESP. -/

@[simp] theorem respond_cap (v : Word) : (respond v s).cap = s.cap := rfl
@[simp] theorem respond_qcount (v : Word) : (respond v s).qcount = s.qcount := rfl
@[simp] theorem respond_ovfidx (v : Word) : (respond v s).ovfidx = s.ovfidx := rfl
@[simp] theorem respond_qbytes (v : Word) : (respond v s).qbytes = s.qbytes := rfl
@[simp] theorem respond_budget (v : Word) : (respond v s).budget = s.budget := rfl
@[simp] theorem respond_cfg (v : Word) : (respond v s).cfg = s.cfg := rfl
@[simp] theorem respond_resp (v : Word) : (respond v s).resp = v := rfl
@[simp] theorem respond_slots (v : Word) : (respond v s).slots = s.slots := rfl
@[simp] theorem respond_slotGen (v : Word) : (respond v s).slotGen = s.slotGen := rfl
@[simp] theorem respond_held (v : Word) : (respond v s).held = s.held := rfl
@[simp] theorem respond_inputs (v : Word) : (respond v s).inputs = s.inputs := rfl
@[simp] theorem respond_trace (v : Word) : (respond v s).trace = s.trace ++ [.resp v] := rfl
@[simp] theorem respond_env (v : Word) : (respond v s).env = s.env := rfl
@[simp] theorem respond_srcMem (v : Word) : (respond v s).srcMem = s.srcMem := rfl
@[simp] theorem respond_slot (v : Word) (i : Nat) : (respond v s).slot i = s.slot i := rfl

end Sys2Proof.Machine
end

