-- ==== Sys2Proof/Laws/Ops.lean ====
section
/-!
SUPPORT. What each shared operation can do, said once: an operation that only talks to the collaborators and the Register Port is
the state with some events appended and the environment replaced (`State.talked`), so a chain of them is one such change.
-/

namespace Sys2Proof.Machine

open Sys2Proof

/-- The state after some events that changed the collaborators to `v` and nothing else. -/
def State.talked (s : State) (evs : List Event) (v : Env) : State := { s with trace := s.trace ++ evs, env := v }

section Talked

variable (s : State) (evs : List Event) (v : Env)

@[simp] theorem talked_cap : (s.talked evs v).cap = s.cap := rfl
@[simp] theorem talked_qcount : (s.talked evs v).qcount = s.qcount := rfl
@[simp] theorem talked_ovfidx : (s.talked evs v).ovfidx = s.ovfidx := rfl
@[simp] theorem talked_qbytes : (s.talked evs v).qbytes = s.qbytes := rfl
@[simp] theorem talked_budget : (s.talked evs v).budget = s.budget := rfl
@[simp] theorem talked_cfg : (s.talked evs v).cfg = s.cfg := rfl
@[simp] theorem talked_resp : (s.talked evs v).resp = s.resp := rfl
@[simp] theorem talked_slots : (s.talked evs v).slots = s.slots := rfl
@[simp] theorem talked_slotGen : (s.talked evs v).slotGen = s.slotGen := rfl
@[simp] theorem talked_held : (s.talked evs v).held = s.held := rfl
@[simp] theorem talked_inputs : (s.talked evs v).inputs = s.inputs := rfl
@[simp] theorem talked_srcMem : (s.talked evs v).srcMem = s.srcMem := rfl
@[simp] theorem talked_trace : (s.talked evs v).trace = s.trace ++ evs := rfl
@[simp] theorem talked_env : (s.talked evs v).env = v := rfl
@[simp] theorem talked_slot (i : Nat) : (s.talked evs v).slot i = s.slot i := rfl

theorem talked_nil : s.talked [] s.env = s := by simp [State.talked]

/-- Two conversations in a row are one. -/
@[simp] theorem talked_talked (evs' : List Event) (v' : Env) :
    (s.talked evs v).talked evs' v' = s.talked (evs ++ evs') v' := by simp [State.talked]

end Talked

/-- The meanings' check of a source address is WellFormed's (R70). -/
theorem srcOdd_eq (src : SrcAddr) : srcOdd src = !srcEven src := by simp [srcOdd, srcEven]

/-! ### Port writes and collaborator calls -/

section Calls

variable (p : Params) (s : State)

theorem emit_eq (e : Event) : s.emit e = s.talked [e] s.env := rfl

theorem writeCtrl32_eq (w : Word) : writeCtrl32 w s = s.talked [.cw32 w] s.env := rfl

theorem writeCtrl16_eq (w : Half) : writeCtrl16 w s = s.talked [.cw16 w] s.env := rfl

theorem writeData_eq (w : Half) : writeData w s = s.talked [.dw16 w] s.env := rfl

theorem writeLength_eq (w : Word) :
    writeLength w s = s.talked [.cw32 w] { s.env with overrun := s.env.overrun || s.env.engine != .idle } := rfl

theorem writeMid_eq (w : Word) :
    writeMid p w s = s.talked [.cw32 w] { s.env with autoStep := stepAfterW2 p w s.env.autoStep } := rfl

theorem writeTrigger_eq (w : Word) :
    writeTrigger w s =
      s.talked [.cw32 w]
        { s.env with engine := s.env.afterNextTrigger, afterTrigger := s.env.afterTrigger.tail } := rfl

theorem setAutoStep_eq (w : Half) : setAutoStep w s = s.talked [.setStep w] { s.env with autoStep := w } := rfl

theorem askStep_eq : askStep s = s.talked [.getStep s.env.autoStep] s.env := rfl

theorem askBusTaken_eq : askBusTaken s = s.talked [.taken s.env.busTaken] s.env := rfl

theorem resumeCoprocessor_eq : resumeCoprocessor s = s.talked [.resume] { s.env with busTaken := false } := rfl

theorem signalPending_eq : signalPending s = s.talked [.pend] { s.env with pending := true } := rfl

theorem askSource_eq (a : SrcAddr) : askSource p a s = s.talked [.srcRd a (srcWord p s.srcMem a)] s.env := rfl

theorem emitDiag_eq (d : Diag) : emitDiag p d s = s.talked (diagEvents p d) s.env := by
  unfold emitDiag diagEvents
  split
  · rfl
  · exact (talked_nil s).symm

theorem report_eq (c : Condition) : report p c s = s.talked (diagEvents p (conditionDiag c s)) s.env :=
  emitDiag_eq p s _

/-- A raised condition changes RESP and the trace, and nothing else (R250). -/
theorem raise_eq (c : Condition) :
    raise p c s = { s with trace := s.trace ++ (diagEvents p (conditionDiag c s) ++ [.resp 0#32]), resp := 0#32 } := by
  rw [raise, report_eq]
  simp [respond, State.emit, State.talked]

end Calls

/-! ### The wait -/

/-- The wait returns where the engine is idle (R58). -/
theorem waitIdle_of_idle {s : State} (h : Held) (after : State → State) (hi : s.env.engine = .idle) :
    waitIdle h after s = after (s.talked [.wait] s.env) := by
  simp [waitIdle, hi, emit_eq]

/-- The wait holds the command, and does nothing else, where the engine is not idle (R58). -/
theorem waitIdle_of_busy {s : State} (h : Held) (after : State → State) (hb : s.env.engine ≠ .idle) :
    waitIdle h after s = { s with held := some h } := by
  simp [waitIdle, hb]

/-! ### The halt -/

section Halt

variable (s : State) (after : State → State)

/-- The engine once a Halt has returned: it may have moved while the bus was being released. -/
def Env.engineAfterHalt (e : Env) : Engine :=
  if e.busTaken then e.engine
  else
    match e.nextRelease with
    | .after n => turnsOf n e.engine
    | .never => e.engine

/-- The environment once a Halt has returned (R62). -/
def Env.halted (e : Env) : Env :=
  { e with
    busTaken := true
    engine := e.engineAfterHalt
    releases := if e.busTaken then e.releases else e.releases.tail }

@[simp] theorem halted_busTaken (e : Env) : e.halted.busTaken = true := rfl
@[simp] theorem halted_autoStep (e : Env) : e.halted.autoStep = e.autoStep := rfl
@[simp] theorem halted_pending (e : Env) : e.halted.pending = e.pending := rfl
@[simp] theorem halted_overrun (e : Env) : e.halted.overrun = e.overrun := rfl
@[simp] theorem halted_engine (e : Env) : e.halted.engine = e.engineAfterHalt := rfl
@[simp] theorem halted_afterTrigger (e : Env) : e.halted.afterTrigger = e.afterTrigger := rfl
@[simp] theorem halted_releases (e : Env) :
    e.halted.releases = if e.busTaken then e.releases else e.releases.tail := rfl

/-- A Halt that finds the bus taken changes nothing (R62). -/
theorem halted_of_taken {e : Env} (h : e.busTaken = true) : e.halted = e := by
  cases e
  simp_all [Env.halted, Env.engineAfterHalt]

/-- The next Halt returns, or the coprocessor never releases the bus. -/
theorem haltsReturn_one (e : Env) : HaltsReturn e 1 ↔ e.busTaken = true ∨ e.nextRelease ≠ .never := by
  unfold HaltsReturn Env.nextRelease
  cases e.releases <;> simp

/-- A command that has called a Halt that never returns (U13). -/
def State.hungInHalt (s : State) : State := { s.talked [.halt] s.env.told with held := some .inHalt }

/-- Such a command has asked for the bus and written no RESP, and nothing of it comes after its `HALT` (U13). -/
theorem hungInHalt_spec (s : State) (evs : List Event) {v : Env} (hp : v.pending = s.env.pending) :
    HungInHalt s (s.talked evs v).hungInHalt evs := by
  refine ⟨rfl, ?_, rfl, rfl, hp, ⟨⟨rfl, rfl, rfl⟩, ⟨rfl, rfl, rfl⟩, fun _ _ => rfl⟩, fun _ => rfl, rfl⟩
  simp [State.hungInHalt]

/-- A Halt that returns is the event, and the bus taken afterwards (R62). -/
theorem haltCoprocessor_of_returns (h : HaltsReturn s.env 1) :
    haltCoprocessor after s = after (s.talked [.halt] s.env.halted) := by
  rw [haltsReturn_one] at h
  cases hb : s.env.busTaken
  · cases hr : s.env.nextRelease
    · simp [haltCoprocessor, Env.halted, Env.engineAfterHalt, Env.told, hb, hr, emit_eq, State.withEnv, State.talked]
    · simp [hb, hr] at h
  · simp [haltCoprocessor, halted_of_taken hb, hb, emit_eq]

/-- A Halt that never returns is the event, and nothing of the command comes after it (U13). -/
theorem haltCoprocessor_of_never (h : ¬HaltsReturn s.env 1) : haltCoprocessor after s = s.hungInHalt := by
  simp only [haltsReturn_one, not_or, ne_eq, not_not] at h
  simp only [haltCoprocessor, h.1, h.2]
  rfl

end Halt

/-! ### The trigger sequencer -/

section Trigger

variable (p : Params) (s : State) (w : Word) (after : State → State)

/-- The environment once the engine has been triggered after a Halt that returned, the bus as it was. -/
def Env.triggered (e : Env) : Env :=
  { e with
    engine := e.afterNextTrigger
    afterTrigger := e.afterTrigger.tail
    releases := if e.busTaken then e.releases else e.releases.tail }

@[simp] theorem triggered_busTaken (e : Env) : e.triggered.busTaken = e.busTaken := rfl
@[simp] theorem triggered_autoStep (e : Env) : e.triggered.autoStep = e.autoStep := rfl
@[simp] theorem triggered_pending (e : Env) : e.triggered.pending = e.pending := rfl
@[simp] theorem triggered_overrun (e : Env) : e.triggered.overrun = e.overrun := rfl
@[simp] theorem triggered_afterTrigger (e : Env) : e.triggered.afterTrigger = e.afterTrigger.tail := rfl
@[simp] theorem triggered_releases (e : Env) :
    e.triggered.releases = if e.busTaken then e.releases else e.releases.tail := rfl
@[simp] theorem triggered_engine (e : Env) : e.triggered.engine = e.afterNextTrigger := rfl

theorem resumeUnless_eq (b : Bool) :
    resumeUnless b s = s.talked (resumeEvents b) (if b then s.env else { s.env with busTaken := false }) := by
  cases b
  · rfl
  · exact (talked_nil s).symm

/-- A trigger word after a Halt that returned: whatever the engine did during the Halt, the trigger starts it anew. -/
theorem writeTrigger_halted (t : State) (evs : List Event) (e : Env) :
    writeTrigger w (t.talked evs e.halted) = t.talked (evs ++ [.cw32 w]) { e.triggered with busTaken := true } := by
  rw [writeTrigger_eq, talked_talked]
  rfl

/-- A trigger sequence whose Halt returns, with one DATA word inside the halt window (R128, R204). The bus is left as it was
found. -/
theorem triggerSeqThen_writeData_eq (d : Half) (h : HaltsReturn s.env 1) :
    triggerSeqThen w (writeData d) after s =
      after (s.talked ([.taken s.env.busTaken, .halt, .cw32 w, .dw16 d] ++ resumeEvents s.env.busTaken) s.env.triggered) := by
  rw [triggerSeqThen, askBusTaken_eq, haltCoprocessor_of_returns (s.talked _ _) _ h]
  simp only [talked_talked, talked_env, writeTrigger_halted, writeData_eq, resumeUnless_eq]
  cases hb : s.env.busTaken <;> simp [Env.triggered, hb]

/-- A trigger sequence whose Halt returns (R128). The bus is left as it was found. -/
theorem triggerSeq_eq (h : HaltsReturn s.env 1) :
    triggerSeq w after s =
      after (s.talked ([.taken s.env.busTaken, .halt, .cw32 w] ++ resumeEvents s.env.busTaken) s.env.triggered) := by
  rw [triggerSeq, triggerSeqThen, askBusTaken_eq, haltCoprocessor_of_returns (s.talked _ _) _ h]
  simp only [talked_talked, talked_env, writeTrigger_halted, resumeUnless_eq, id_eq]
  cases hb : s.env.busTaken <;> simp [Env.triggered, hb]

/-- A trigger sequence whose Halt never returns gets no further (U13). -/
theorem triggerSeqThen_of_never (inside : State → State) (h : ¬HaltsReturn s.env 1) :
    triggerSeqThen w inside after s = (s.talked [.taken s.env.busTaken] s.env).hungInHalt := by
  rw [triggerSeqThen, askBusTaken_eq, haltCoprocessor_of_never (s.talked _ _) _ h]

/-- A trigger within a batch whose Halt returns (R129): the bus stays taken. -/
theorem triggerSeqBatch_eq (b : Batch) (h : HaltsReturn s.env 1) :
    triggerSeqBatch w b after s =
      after (s.talked ((if b.isOpen then [] else [.taken s.env.busTaken]) ++ [.halt, .cw32 w])
        { s.env.triggered with busTaken := true }) := by
  have hs : (if b.isOpen then s else askBusTaken s) =
      s.talked (if b.isOpen then [] else [.taken s.env.busTaken]) s.env := by
    split
    · exact (talked_nil s).symm
    · rfl
  rw [triggerSeqBatch, hs, haltCoprocessor_of_returns (s.talked _ _) _ h]
  simp only [talked_talked, talked_env, writeTrigger_halted, List.append_assoc]
  rfl

/-- The first trigger of a batch, whose Halt never returns, gets no further (U13). -/
theorem triggerSeqBatch_of_never (b : Batch) (hb : b.isOpen = false) (h : ¬HaltsReturn s.env 1) :
    triggerSeqBatch w b after s = (s.talked [.taken s.env.busTaken] s.env).hungInHalt := by
  rw [triggerSeqBatch, hb]
  exact haltCoprocessor_of_never (askBusTaken s) _ h

theorem batchEnd_eq (b : Batch) :
    batchEnd b s =
      if b.isOpen && !b.taken then s.talked [.resume] { s.env with busTaken := false } else s := rfl

/-- The three words before a trigger (R182). -/
theorem writeDescriptorHead_eq (d : Descriptor) :
    writeDescriptorHead p d s =
      s.talked [.cw32 d.w1, .cw32 d.w2, .cw32 d.w3]
        { s.env with
          autoStep := stepAfterW2 p d.w2 s.env.autoStep
          overrun := s.env.overrun || s.env.engine != .idle } := by
  simp [writeDescriptorHead, writeCtrl32_eq, writeLength_eq, writeMid_eq]

end Trigger

/-! ### The software copier -/

section Copier

variable (p : Params) (s : State)

theorem copyWord_eq (a : SrcAddr) :
    copyWord p a s = s.talked [.srcRd a (srcWord p s.srcMem a), .dw16 (srcWord p s.srcMem a)] s.env := by
  simp [copyWord, askSource_eq, writeData_eq]

/-- The copier's loop reads and writes word by word, each address 2 after the one before modulo 2^24 (R230). -/
theorem copyWords_eq (n : Nat) (a : SrcAddr) :
    copyWords p n a s = s.talked (copierPairs p s.srcMem a n) s.env := by
  induction n generalizing s a with
  | zero => simp [copyWords, copierPairs, talked_nil]
  | succ n ih =>
    have hstep : ∀ k : Nat, a + 2#24 + BitVec.ofNat 24 (2 * k) = a + BitVec.ofNat 24 (2 * (k + 1)) := by
      intro k
      rw [Nat.mul_add, Nat.add_comm (2 * k), BitVec.ofNat_add, BitVec.add_assoc]
    rw [copyWords, ih, copyWord_eq]
    simp [copierPairs, List.range_succ_eq_map, List.flatMap_map, hstep]

/-- The software copier talks, and leaves the auto-increment at the step it was given (R230, R233). -/
theorem softwareCopy_eq (trig : Word) (src : SrcAddr) (len step : Half) :
    softwareCopy p trig src len step s =
      s.talked (copierEvents p s.srcMem trig src len step) { s.env with autoStep := step } := by
  simp [softwareCopy, setAutoStep_eq, writeCtrl32_eq, copyWords_eq, copierEvents]

end Copier

end Sys2Proof.Machine
end

