-- ==== Sys2Proof/Laws/PerInstr.lean ====
section
/-!
SUPPORT. The family EncodingMatchesRow: the encoding of a well-formed instruction has the width of its row of
spec/opcode_table.json, and its bits under the row's mask are the row's match.
-/

namespace Sys2Proof

/-- Masking two parts put together is masking each part. -/
theorem append_and {v w : Nat} (a m : BitVec v) (b n : BitVec w) :
    ((a ++ b) &&& (m ++ n) : BitVec (v + w)) = (a &&& m) ++ (b &&& n) := by
  ext i hi
  simp only [BitVec.getElem_and, BitVec.getElem_append]
  split <;> rfl

/-- Masking a packet's number is masking its four words. -/
theorem bits_and (p m : Packet) :
    p.bits &&& m.bits = Packet.bits ⟨p.p0 &&& m.p0, p.p1 &&& m.p1, p.p2 &&& m.p2, p.p3 &&& m.p3⟩ :=
  (append_and p.p0 m.p0 _ _).trans
    (congrArg ((p.p0 &&& m.p0) ++ ·)
      ((append_and p.p1 m.p1 _ _).trans (congrArg ((p.p1 &&& m.p1) ++ ·) (append_and p.p2 m.p2 p.p3 m.p3))))

/-- A mask for format P, field by field; the six zero bits are always under it (R91). -/
def packetMask (op : Byte) (src : SrcAddr) (dst len step : Half) (val : Byte) (cls : BitVec 2) (aux : Word) : Packet :=
  { p0 := op ++ src, p1 := dst ++ len, p2 := step ++ (val ++ (0x3F#6 ++ cls)), p3 := aux }

/-- A packed packet under such a mask is the packing of the masked fields. -/
theorem packed_and (op : Byte) (src : SrcAddr) (dst len step : Half) (val : Byte) (cls : BitVec 2) (aux : Word)
    (mop : Byte) (msrc : SrcAddr) (mdst mlen mstep : Half) (mval : Byte) (mcls : BitVec 2) (maux : Word) :
    (packed op src dst len step val cls aux).bits &&& (packetMask mop msrc mdst mlen mstep mval mcls maux).bits =
      (packed (op &&& mop) (src &&& msrc) (dst &&& mdst) (len &&& mlen) (step &&& mstep) (val &&& mval) (cls &&& mcls)
        (aux &&& maux)).bits := by
  have h0 : (op ++ src : Word) &&& (mop ++ msrc) = (op &&& mop) ++ (src &&& msrc) := append_and op mop src msrc
  have h1 : (dst ++ len : Word) &&& (mdst ++ mlen) = (dst &&& mdst) ++ (len &&& mlen) := append_and dst mdst len mlen
  have h2 : (step ++ (val ++ (0#6 ++ cls)) : Word) &&& (mstep ++ (mval ++ (0x3F#6 ++ mcls))) =
      (step &&& mstep) ++ ((val &&& mval) ++ (0#6 ++ (cls &&& mcls))) :=
    (append_and step mstep _ _).trans
      (congrArg ((step &&& mstep) ++ ·)
        ((append_and val mval _ _).trans (congrArg ((val &&& mval) ++ ·) (append_and 0#6 0x3F#6 cls mcls))))
  rw [bits_and]
  simp only [packed, packetMask, h0, h1, h2]

/-- An even source address has bit 0 clear (R70). -/
theorem srcEven_and_one {src : SrcAddr} (h : srcEven src = true) : src &&& 1#24 = 0#24 := by
  have h0 : src.toNat % 2 = 0 := by
    have : src.toNat.testBit 0 = false := by simpa [srcEven, BitVec.getLsbD] using h
    simpa [Nat.testBit_zero] using this
  apply BitVec.eq_of_toNat_eq
  rw [BitVec.toNat_and]
  simpa [Nat.and_one_is_mod] using h0

namespace Laws.EncodingMatchesRow

/-- The encoding of an instruction is as wide as its row of the opcode table, and, for a well-formed instruction, has the row's
match under the row's mask (30_encoding.md R96). -/
def Statement (i : Instr) : Prop :=
  (encode i).width = i.tableRow.bits ∧
    (i.wellFormed = true → (encode i).number &&& i.tableRow.mask = i.tableRow.value)

/-- A packet's number under a row's mask, from the mask and the match as packets. -/
theorem number_and {p : Packet} (m v : Packet) {mask value : Nat} (hm : mask = m.bits.toNat) (hv : value = v.bits.toNat)
    (h : p.bits &&& m.bits = v.bits) : (Fetched.packet p).number &&& mask = value := by
  rw [hm, hv, ← h, BitVec.toNat_and]
  rfl

theorem init (cap : Half) (budget : Word) : Statement (.init cap budget) := by
  refine ⟨rfl, fun _ => number_and (packetMask 0xFF#8 0xFFFFFF#24 0xFFFF#16 0#16 0xFFFF#16 0xFF#8 3#2 0#32)
    (packed 0x01#8 0#24 0#16 0#16 0#16 0#8 0#2 0#32) rfl rfl ?_⟩
  exact (packed_and ..).trans (by simp)

theorem setcfg (autoflush ignover : Bool) : Statement (.setcfg autoflush ignover) := by
  refine ⟨rfl, fun _ => number_and
    (packetMask 0xFF#8 0xFFFFFF#24 0xFFFF#16 0xFFFF#16 0xFFFF#16 0xFF#8 3#2 0xFFFFFFFC#32)
    (packed 0x02#8 0#24 0#16 0#16 0#16 0#8 0#2 0#32) rfl rfl ?_⟩
  cases autoflush <;> cases ignover <;> exact (packed_and ..).trans (by simp)

theorem enq (cls : DestClass) (src : SrcAddr) (dst len step : Half) : Statement (.enq cls src dst len step) := by
  refine ⟨rfl, fun h => number_and (packetMask 0xFF#8 1#24 0#16 0#16 0#16 0xFF#8 0#2 0xFFFFFFFF#32)
    (packed 0x03#8 0#24 0#16 0#16 0#16 0#8 0#2 0#32) rfl rfl ?_⟩
  exact (packed_and ..).trans (by rw [srcEven_and_one h]; simp)

theorem clrq : Statement .clrq := ⟨rfl, fun _ => by decide⟩

theorem qsize : Statement .qsize := ⟨rfl, fun _ => by decide⟩

theorem qbytes : Statement .qbytes := ⟨rfl, fun _ => by decide⟩

theorem qovf : Statement .qovf := ⟨rfl, fun _ => by decide⟩

theorem flush : Statement .flush := ⟨rfl, fun _ => by decide⟩

theorem xfer (cls : DestClass) (src : SrcAddr) (dst len step : Half) : Statement (.xfer cls src dst len step) := by
  refine ⟨rfl, fun h => number_and (packetMask 0xFF#8 1#24 0#16 0#16 0#16 0xFF#8 0#2 0xFFFFFFFF#32)
    (packed 0x09#8 0#24 0#16 0#16 0#16 0#8 0#2 0#32) rfl rfl ?_⟩
  exact (packed_and ..).trans (by rw [srcEven_and_one h]; simp)

theorem fill (dst len : Half) (val : Byte) (step : Half) : Statement (.fill dst len val step) := by
  refine ⟨rfl, fun _ => number_and (packetMask 0xFF#8 0xFFFFFF#24 0#16 0#16 0#16 0#8 3#2 0xFFFFFFFF#32)
    (packed 0x0A#8 0#24 0#16 0#16 0#16 0#8 0#2 0#32) rfl rfl ?_⟩
  exact (packed_and ..).trans (by simp)

theorem copy (srcoff dst len step : Half) : Statement (.copy srcoff dst len step) := by
  refine ⟨rfl, fun _ => number_and (packetMask 0xFF#8 0xFF0000#24 0#16 0#16 0#16 0xFF#8 3#2 0xFFFFFFFF#32)
    (packed 0x0B#8 0#24 0#16 0#16 0#16 0#8 0#2 0#32) rfl rfl ?_⟩
  have h : (0#8 ++ srcoff : SrcAddr) &&& 0xFF0000#24 = 0#24 := (append_and 0#8 0xFF#8 srcoff 0#16).trans (by simp)
  exact (packed_and ..).trans (by rw [h]; simp)

theorem swcopy (trig : Word) (src : SrcAddr) (len step : Half) : Statement (.swcopy trig src len step) := by
  refine ⟨rfl, fun h => number_and (packetMask 0xFF#8 1#24 0xFFFF#16 0#16 0#16 0xFF#8 3#2 0#32)
    (packed 0x0C#8 0#24 0#16 0#16 0#16 0#8 0#2 0#32) rfl rfl ?_⟩
  exact (packed_and ..).trans (by rw [srcEven_and_one h]; simp)

/-- A 32-bit port word under a row's mask. -/
theorem port32_and {w : Word} (m v : Word) (h : w &&& m = v) : (Fetched.port32 w).number &&& m.toNat = v.toNat := by
  rw [← h, BitVec.toNat_and]
  rfl

theorem w1Length (len : Half) : Statement (.w1Length len) :=
  ⟨rfl, fun _ => port32_and 0xFF00FF00#32 0x94009300#32
    ((append_and (0x94#8 ++ len.extractLsb' 8 8 ++ 0x93#8 : BitVec 24) 0xFF00FF#24 _ 0#8).trans
      (by
        rw [show (0x94#8 ++ len.extractLsb' 8 8 ++ 0x93#8 : BitVec 24) &&& 0xFF00FF#24 = _ from
          append_and (0x94#8 ++ len.extractLsb' 8 8 : BitVec 16) 0xFF00#16 0x93#8 0xFF#8,
          show (0x94#8 ++ len.extractLsb' 8 8 : BitVec 16) &&& 0xFF00#16 = _ from
          append_and 0x94#8 0xFF#8 (len.extractLsb' 8 8) 0#8]
        simp))⟩

theorem w2MidStep (mid step : Byte) : Statement (.w2MidStep mid step) :=
  ⟨rfl, fun _ => port32_and 0xFF00FF00#32 0x96008F00#32
    ((append_and (0x96#8 ++ mid ++ 0x8F#8 : BitVec 24) 0xFF00FF#24 step 0#8).trans
      (by
        rw [show (0x96#8 ++ mid ++ 0x8F#8 : BitVec 24) &&& 0xFF00FF#24 = _ from
          append_and (0x96#8 ++ mid : BitVec 16) 0xFF00#16 0x8F#8 0xFF#8,
          show (0x96#8 ++ mid : BitVec 16) &&& 0xFF00#16 = _ from append_and 0x96#8 0xFF#8 mid 0#8]
        simp))⟩

theorem w3HiLo (hi : BitVec 7) (lo : Byte) : Statement (.w3HiLo hi lo) :=
  ⟨rfl, fun _ => port32_and 0xFF80FF00#32 0x97009500#32
    ((append_and (0x97#8 ++ 0#1 ++ hi ++ 0x95#8 : BitVec 24) 0xFF80FF#24 lo 0#8).trans
      (by
        rw [show (0x97#8 ++ 0#1 ++ hi ++ 0x95#8 : BitVec 24) &&& 0xFF80FF#24 = _ from
          append_and (0x97#8 ++ 0#1 ++ hi : BitVec 16) 0xFF80#16 0x95#8 0xFF#8,
          show (0x97#8 ++ 0#1 ++ hi : BitVec 16) &&& 0xFF80#16 = _ from
          append_and (0x97#8 ++ 0#1 : BitVec 9) 0x1FF#9 hi 0#7]
        simp))⟩

theorem w4Trigger (word : Word) : Statement (.w4Trigger word) := ⟨rfl, fun _ => Nat.and_zero _⟩

theorem fillSuffix : Statement .fillSuffix := ⟨rfl, fun _ => by decide⟩

theorem copySuffix : Statement .copySuffix := ⟨rfl, fun _ => by decide⟩

theorem fillData (val : Byte) : Statement (.fillData val) := ⟨rfl, fun _ => Nat.and_zero _⟩

end Laws.EncodingMatchesRow

end Sys2Proof
end

