-- ==== Sys2Proof/Laws/Store.lean ====
section
/-!
SUPPORT. The basic laws of the two stores, source memory and the queue store: a read after a write gives the value written, a
write leaves every other place alone, and every operation keeps the canonical form.
-/

namespace Sys2Proof.Machine

open Sys2Proof

/-! ### Source memory -/

@[simp] theorem memory_read_nil (a : Nat) : Memory.read [] a = Config.sourceByte a := rfl

theorem memory_read_cons (k : Nat) (v : Byte) (m : Memory) (a : Nat) :
    Memory.read ((k, v) :: m) a = if k = a then v else Memory.read m a := rfl

/-- A byte below every listed address reads as an unlisted one. -/
theorem memory_read_below {m : Memory} {lo a : Nat} (h : risingFrom lo m = true) (ha : a < lo) :
    Memory.read m a = Config.sourceByte a := by
  induction m generalizing lo with
  | nil => rfl
  | cons c m ih =>
    obtain ⟨k, v⟩ := c
    simp only [risingFrom, Bool.and_eq_true, decide_eq_true_eq] at h
    rw [memory_read_cons, if_neg (by omega)]
    exact ih h.2 (by omega)

theorem memory_read_list_same {m : Memory} {a : Nat} {b : Byte} (h : risingFrom (a + 1) m = true) :
    Memory.read (Memory.list a b m) a = b := by
  unfold Memory.list
  split
  · next hb => rw [memory_read_below h (by omega), hb]
  · simp [memory_read_cons]

theorem memory_read_list_other (m : Memory) {a a' : Nat} (b : Byte) (ha : a' ≠ a) :
    Memory.read (Memory.list a b m) a' = Memory.read m a' := by
  unfold Memory.list
  split
  · rfl
  · rw [memory_read_cons, if_neg (Ne.symm ha)]

theorem risingFrom_mono {α : Type} {m : List (Nat × α)} {lo lo' : Nat} (h : risingFrom lo m = true) (hl : lo' ≤ lo) :
    risingFrom lo' m = true := by
  cases m with
  | nil => rfl
  | cons c m =>
    simp only [risingFrom, Bool.and_eq_true, decide_eq_true_eq] at h ⊢
    exact ⟨by omega, h.2⟩

/-- A read after a write to the same address gives the byte written. -/
theorem memory_read_write_same {m : Memory} {lo a : Nat} (b : Byte) (h : risingFrom lo m = true) :
    Memory.read (Memory.write m a b) a = b := by
  induction m generalizing lo with
  | nil => exact memory_read_list_same rfl
  | cons c m ih =>
    obtain ⟨k, v⟩ := c
    have hk := h
    simp only [risingFrom, Bool.and_eq_true, decide_eq_true_eq] at hk
    unfold Memory.write
    split
    · next hlt =>
      refine memory_read_list_same ?_
      simpa [risingFrom] using ⟨hlt, hk.2⟩
    · split
      · next heq => exact memory_read_list_same (heq ▸ hk.2)
      · next hne => rw [memory_read_cons, if_neg (fun e => hne e.symm), ih hk.2]

/-- A write leaves every other address alone. -/
theorem memory_read_write_other (m : Memory) {a a' : Nat} (b : Byte) (ha : a' ≠ a) :
    Memory.read (Memory.write m a b) a' = Memory.read m a' := by
  induction m with
  | nil => exact memory_read_list_other [] b ha
  | cons c m ih =>
    obtain ⟨k, v⟩ := c
    unfold Memory.write
    split
    · exact memory_read_list_other _ b ha
    · split
      · next heq =>
        rw [memory_read_list_other _ b ha, memory_read_cons, if_neg (fun e => ha (by omega))]
      · rw [memory_read_cons, memory_read_cons, ih]

theorem memory_list_rising {m : Memory} {a : Nat} {b : Byte} {lo : Nat} (h : risingFrom (a + 1) m = true) (hl : lo ≤ a) :
    risingFrom lo (Memory.list a b m) = true := by
  unfold Memory.list
  split
  · exact risingFrom_mono h (by omega)
  · simpa [risingFrom] using ⟨hl, h⟩

theorem memory_write_rising {m : Memory} {a : Nat} {b : Byte} {lo : Nat} (h : risingFrom lo m = true) :
    risingFrom (min lo a) (Memory.write m a b) = true := by
  induction m generalizing lo with
  | nil => exact memory_list_rising rfl (by omega)
  | cons c m ih =>
    obtain ⟨k, v⟩ := c
    simp only [risingFrom, Bool.and_eq_true, decide_eq_true_eq] at h
    unfold Memory.write
    split
    · next hlt =>
      refine memory_list_rising ?_ (by omega)
      simpa [risingFrom] using ⟨hlt, h.2⟩
    · split
      · next heq => exact memory_list_rising (heq ▸ h.2) (by omega)
      · next hlt hne =>
        have := ih h.2
        simp only [risingFrom, Bool.and_eq_true, decide_eq_true_eq]
        exact ⟨by omega, risingFrom_mono this (by omega)⟩

/-- What every entry of source memory in canonical form satisfies. -/
def goodCell (c : Host.Cell) : Bool := c.1 < 2 ^ 24 && c.2 != Config.sourceByte c.1

theorem memory_list_good {m : Memory} {a : Nat} {b : Byte} (h : m.all goodCell = true) (ha : a < 2 ^ 24) :
    (Memory.list a b m).all goodCell = true := by
  unfold Memory.list
  split
  · exact h
  · next hb =>
    rw [List.all_cons, h, Bool.and_true]
    simp [goodCell, hb]
    omega

theorem memory_write_good {m : Memory} {a : Nat} {b : Byte} (h : m.all goodCell = true) (ha : a < 2 ^ 24) :
    (Memory.write m a b).all goodCell = true := by
  induction m with
  | nil => exact memory_list_good h ha
  | cons c m ih =>
    obtain ⟨k, v⟩ := c
    have hc := h
    rw [List.all_cons, Bool.and_eq_true] at hc
    unfold Memory.write
    split
    · exact memory_list_good h ha
    · split
      · exact memory_list_good hc.2 ha
      · rw [List.all_cons, hc.1, ih hc.2]; rfl

/-- A write at a 24-bit address keeps source memory in canonical form. -/
theorem memory_write_wf {m : Memory} {a : Nat} {b : Byte} (h : Memory.wf m = true) (ha : a < 2 ^ 24) :
    Memory.wf (Memory.write m a b) = true := by
  simp only [Memory.wf, Bool.and_eq_true] at h ⊢
  exact ⟨risingFrom_mono (memory_write_rising h.1) (by omega), memory_write_good h.2 ha⟩

/-- Source memory at reset is in canonical form. -/
theorem reset_memory_wf : Memory.wf State.reset.srcMem = true := rfl

/-! ### The queue store -/

theorem slots_read_cons (g k : Nat) (d : Descriptor) (q : Slots) (i : Nat) :
    Slots.read g ((k, d) :: q) i = if k = i then d else Slots.read g q i := rfl

/-- A read after a store in the same slot gives the descriptor stored. -/
theorem slots_read_write_same (g : Nat) (q : Slots) (i : Nat) (d : Descriptor) :
    Slots.read g (Slots.write q i d) i = d := by
  induction q with
  | nil => simp [Slots.write, slots_read_cons]
  | cons c q ih =>
    obtain ⟨k, e⟩ := c
    unfold Slots.write
    split
    · simp [slots_read_cons]
    · split
      · simp [slots_read_cons]
      · next hne => rw [slots_read_cons, if_neg (fun h => hne h.symm), ih]

/-- A store leaves every other slot alone. -/
theorem slots_read_write_other (g : Nat) (q : Slots) {i j : Nat} (d : Descriptor) (hj : j ≠ i) :
    Slots.read g (Slots.write q i d) j = Slots.read g q j := by
  induction q with
  | nil => simp [Slots.write, slots_read_cons, Ne.symm hj]
  | cons c q ih =>
    obtain ⟨k, e⟩ := c
    unfold Slots.write
    split
    · rw [slots_read_cons, if_neg (Ne.symm hj)]
    · split
      · next heq =>
        rw [slots_read_cons, if_neg (Ne.symm hj), slots_read_cons, if_neg (fun h => hj (by omega))]
      · rw [slots_read_cons, slots_read_cons, ih]

theorem slots_write_rising {q : Slots} {i : Nat} {d : Descriptor} {lo : Nat} (h : risingFrom lo q = true) :
    risingFrom (min lo i) (Slots.write q i d) = true := by
  induction q generalizing lo with
  | nil => simp [Slots.write, risingFrom]
  | cons c q ih =>
    obtain ⟨k, e⟩ := c
    simp only [risingFrom, Bool.and_eq_true, decide_eq_true_eq] at h
    unfold Slots.write
    split
    · next hlt =>
      simp only [risingFrom, Bool.and_eq_true, decide_eq_true_eq]
      exact ⟨by omega, by omega, h.2⟩
    · split
      · next heq =>
        simp only [risingFrom, Bool.and_eq_true, decide_eq_true_eq]
        exact ⟨by omega, heq ▸ h.2⟩
      · next hlt hne =>
        simp only [risingFrom, Bool.and_eq_true, decide_eq_true_eq]
        exact ⟨by omega, risingFrom_mono (ih h.2) (by omega)⟩

@[simp] theorem slot_storeSlot_same (s : State) (i : Nat) (d : Descriptor) : (s.storeSlot i d).slot i = d :=
  slots_read_write_same s.slotGen s.slots i d

theorem slot_storeSlot_other (s : State) {i j : Nat} (d : Descriptor) (hj : j ≠ i) :
    (s.storeSlot i d).slot j = s.slot j := slots_read_write_other s.slotGen s.slots d hj

end Sys2Proof.Machine
end

