-- ==== Sys2Proof/Laws/Queue.lean ====
section
/-!
SUPPORT. What storing one descriptor can do, said once (41_queue_controller.md R153, R154).
-/

namespace Sys2Proof.Machine

open Sys2Proof

section StoreOne

variable (p : Params) (cls : DestClass) (seg : Segment) (step : Half) (s : State)

/-- The byte total after a store (R153). -/
def bytesAfter (s : State) (seg : Segment) : Word := s.qbytes + (seg.len.setWidth 32 <<< 1)

/-- The total after a store is over a configured budget (R154). -/
def overAfter (s : State) (seg : Segment) : Bool := s.budget != 0#32 && s.budget < bytesAfter s seg

/-- A store is the first recorded crossing (R154). -/
def crossesAfter (s : State) (seg : Segment) : Bool := overAfter s seg && !s.overflowRecorded

/-- The auto-flush condition after a store (R153). -/
def signalsAfter (s : State) (seg : Segment) : Bool := s.autoflush && bytesAfter s seg != 0#32

/-- The events of one store: the pending signal, then the warning (R153, R154). -/
def storeEvents (p : Params) (s : State) (seg : Segment) : List Event :=
  (if signalsAfter s seg then [.pend] else []) ++
    (if crossesAfter s seg then diagEvents p (.warnBudget (bytesAfter s seg) s.budget) else [])

/-- The auto-flush signal is the event and the external flag, or nothing (R153). -/
theorem autoflushSignal_eq (t : State) :
    autoflushSignal t =
      t.talked (if t.autoflush && t.qbytes != 0#32 then [.pend] else [])
        (if t.autoflush && t.qbytes != 0#32 then { t.env with pending := true } else t.env) := by
  unfold autoflushSignal
  cases t.autoflush && t.qbytes != 0#32
  · exact (talked_nil t).symm
  · rfl

/-- The budget check changes OVFIDX, and warns, on the first recorded crossing only (R154). -/
theorem budgetCheck_eq (t : State) :
    budgetCheck p t =
      { t with
        ovfidx := if t.overBudget && !t.overflowRecorded then t.qcount - 1#16 else t.ovfidx
        trace := t.trace ++
          (if t.overBudget && !t.overflowRecorded then diagEvents p (.warnBudget t.qbytes t.budget) else []) } := by
  unfold budgetCheck recordOverflow
  cases t.overBudget <;> cases t.overflowRecorded <;> simp [report_eq, State.talked, conditionDiag]

/-- Everything one `StoreOne` does (R153, R154). -/
theorem storeOne_eq :
    storeOne p cls seg step s =
      { s with
        slots := Slots.write s.slots s.qcount.toNat (packDesc p cls seg.src seg.dst seg.len step)
        qcount := s.qcount + 1#16
        qbytes := bytesAfter s seg
        ovfidx := if crossesAfter s seg then s.qcount else s.ovfidx
        trace := s.trace ++ storeEvents p s seg
        env := if signalsAfter s seg then { s.env with pending := true } else s.env } := by
  have hq : s.qcount + 1#16 - 1#16 = s.qcount := by simp
  have happ := List.append_assoc s.trace (if signalsAfter s seg then [.pend] else [])
    (if crossesAfter s seg then diagEvents p (.warnBudget (bytesAfter s seg) s.budget) else [])
  rw [storeOne, budgetCheck_eq, autoflushSignal_eq, storeEvents, ← happ]
  simp only [talked_qcount, talked_ovfidx, talked_trace, talked_qbytes, talked_budget, storeDescriptor, hq]
  rfl

/-- `StoreOne`'s answer (R154): false only over budget under ignore-over-capacity. -/
theorem budgetAccepts_storeOne :
    budgetAccepts (storeOne p cls seg step s) = !(overAfter s seg && s.ignover) := by
  rw [storeOne_eq]
  rfl

end StoreOne

end Sys2Proof.Machine
end

