-- ==== Sys2Proof/Laws/Transfer.lean ====
section
/-!
SUPPORT. What one replayed descriptor, one directly issued segment, a fill and a copy can do, said once each: the events they
emit and the environment they leave (42_flush_engine.md R182, R183; 43_direct_transfer.md R201, R204, R206).
-/

namespace Sys2Proof.Machine

open Sys2Proof

section Transfer

variable (p : Params) (s : State) (after : State → State)

/-- The environment once a transfer's length word and its W2 `w2` have gone out and the engine has been triggered. -/
def Env.afterTransfer (p : Params) (w2 : Word) (e : Env) : Env :=
  { e.triggered with autoStep := stepAfterW2 p w2 e.autoStep, overrun := e.overrun || e.engine != .idle }

@[simp] theorem afterTransfer_busTaken (w2 : Word) (e : Env) : (e.afterTransfer p w2).busTaken = e.busTaken := rfl
@[simp] theorem afterTransfer_pending (w2 : Word) (e : Env) : (e.afterTransfer p w2).pending = e.pending := rfl
@[simp] theorem afterTransfer_engine (w2 : Word) (e : Env) : (e.afterTransfer p w2).engine = e.afterNextTrigger := rfl
@[simp] theorem afterTransfer_afterTrigger (w2 : Word) (e : Env) :
    (e.afterTransfer p w2).afterTrigger = e.afterTrigger.tail := rfl
@[simp] theorem afterTransfer_releases (w2 : Word) (e : Env) :
    (e.afterTransfer p w2).releases = if e.busTaken then e.releases else e.releases.tail := rfl
@[simp] theorem afterTransfer_overrun (w2 : Word) (e : Env) :
    (e.afterTransfer p w2).overrun = (e.overrun || e.engine != .idle) := rfl
@[simp] theorem afterTransfer_autoStep (w2 : Word) (e : Env) :
    (e.afterTransfer p w2).autoStep = stepAfterW2 p w2 e.autoStep := rfl

/-- A descriptor with its own trigger sequence, whose Halt returns (R128, R182). -/
theorem descriptor_triggerSeq_eq (d : Descriptor) (h : HaltsReturn s.env 1) :
    triggerSeq d.w4 after (writeDescriptorHead p d s) =
      after (s.talked (perTriggerEvents s.env.busTaken d) (s.env.afterTransfer p d.w2)) := by
  rw [writeDescriptorHead_eq, triggerSeq_eq, talked_talked]
  · rfl
  · exact h

/-- The state in which a descriptor's Halt that never returns leaves the command (U13). -/
def hungTransfer (d : Descriptor) : State :=
  State.hungInHalt
    (s.talked [.cw32 d.w1, .cw32 d.w2, .cw32 d.w3, .taken s.env.busTaken]
      { s.env with autoStep := stepAfterW2 p d.w2 s.env.autoStep, overrun := s.env.overrun || s.env.engine != .idle })

/-- A descriptor with its own trigger sequence, whose Halt never returns (U13). -/
theorem descriptor_triggerSeq_of_never (d : Descriptor) (h : ¬HaltsReturn s.env 1) :
    triggerSeq d.w4 after (writeDescriptorHead p d s) = hungTransfer p s d := by
  rw [writeDescriptorHead_eq, triggerSeq, triggerSeqThen_of_never, talked_talked]
  · rfl
  · exact h

/-- One replayed descriptor in PER_TRIGGER scope, whose Halt returns (R182). -/
theorem replayHardware_perTrigger_eq (d : Descriptor) (b : Batch) (hp : p.haltScope = .perTrigger)
    (h : HaltsReturn s.env 1) :
    replayHardware p d b after s =
      after (s.talked (perTriggerEvents s.env.busTaken d) (s.env.afterTransfer p d.w2)) := by
  rw [replayHardware, hp]
  exact descriptor_triggerSeq_eq p s after d h

/-- One replayed descriptor in PER_BATCH scope, whose Halt returns (R129, R182): the bus stays taken. -/
theorem replayHardware_perBatch_eq (d : Descriptor) (b : Batch) (hp : p.haltScope = .perBatch)
    (h : HaltsReturn s.env 1) :
    replayHardware p d b after s =
      after (s.talked
        ([.cw32 d.w1, .cw32 d.w2, .cw32 d.w3] ++ (if b.isOpen then [] else [.taken s.env.busTaken]) ++ [.halt, .cw32 d.w4])
        { s.env.afterTransfer p d.w2 with busTaken := true }) := by
  rw [replayHardware, hp]
  simp only [writeDescriptorHead_eq]
  rw [triggerSeqBatch_eq, talked_talked, List.append_assoc]
  · rfl
  · exact h

/-- One replayed descriptor whose Halt never returns, in both scopes: in PER_BATCH scope it is the batch's first (U13). -/
theorem replayHardware_of_never (d : Descriptor) (b : Batch) (hb : p.haltScope = .perBatch → b.isOpen = false)
    (h : ¬HaltsReturn s.env 1) :
    replayHardware p d b after s = hungTransfer p s d := by
  cases hp : p.haltScope <;> simp only [replayHardware, hp]
  · exact descriptor_triggerSeq_of_never p s after d h
  · rw [writeDescriptorHead_eq, triggerSeqBatch_of_never, talked_talked]
    · rfl
    · exact hb hp
    · exact h

/-- The batch after a replayed descriptor in PER_BATCH scope: open, with the sample of its first trigger (R129). -/
theorem replayBatch_perBatch_eq (d : Descriptor) (b : Batch) (h : p.haltScope = .perBatch) :
    replayBatch p d b s = if b.isOpen then b else { isOpen := true, taken := s.env.busTaken } := by
  rw [replayBatch, h]
  simp [openBatch, writeDescriptorHead_eq]

/-- One descriptor replayed by the copier (R183). -/
theorem replayFallback_eq (d : Descriptor) :
    replayFallback p d s =
      s.talked (copierEvents p s.srcMem d.w4 (unpackSrc d.w2 d.w3) (unpackLen d.w1) (unpackStep d.w2))
        { s.env with autoStep := unpackStep d.w2 } := softwareCopy_eq p s ..

/-- The auto-increment once the step question and setting of a direct operation are over (R132). -/
theorem effStep_eq (step : Half) : effStep step s = if step = 0xFFFF#16 then s.env.autoStep else step := rfl

/-- The step question and setting of a direct operation (R132): one event, and the auto-increment is the effective step. -/
theorem stepSetup_eq (step : Half) :
    setStepUnlessSentinel step (askEffStep step s) =
      s.talked (stepEvents s.env.autoStep step) { s.env with autoStep := effStep step s } := by
  unfold setStepUnlessSentinel askEffStep effStep stepEvents stepSentinel
  split
  · rfl
  · rfl

/-- The environment after one segment of an XFER whose Halt returned, by HWXFER (R201). -/
def Env.afterSegment (p : Params) (seg : Segment) (eff : Half) (e : Env) : Env :=
  match p.hwXfer with
  | .enabled => { e with autoStep := eff }.afterTransfer p (packMid seg.src eff)
  | .disabled => { e with autoStep := eff }

@[simp] theorem afterSegment_busTaken (seg : Segment) (eff : Half) (e : Env) :
    (e.afterSegment p seg eff).busTaken = e.busTaken := by unfold Env.afterSegment; split <;> rfl

@[simp] theorem afterSegment_pending (seg : Segment) (eff : Half) (e : Env) :
    (e.afterSegment p seg eff).pending = e.pending := by unfold Env.afterSegment; split <;> rfl

/-- One segment of an XFER, after its wait, in either mode; with hardware transfers its Halt returns (R201). -/
theorem issueSegment_eq (cls : DestClass) (seg : Segment) (step : Half)
    (h : HaltsReturn s.env (hardwareTransfers p 1)) :
    issueSegment p cls seg step after s =
      after (s.talked (segmentEvents p s.srcMem s.env.busTaken s.env.autoStep cls seg step)
        (s.env.afterSegment p seg (effStep step s))) := by
  cases hx : p.hwXfer <;> simp only [hardwareTransfers, hx] at h <;>
    simp only [issueSegment, issueHardware, segmentEvents, Env.afterSegment, hx]
  · rw [stepSetup_eq, descriptor_triggerSeq_eq, talked_talked]
    · rfl
    · exact h
  · have hask : askEffStep step s = s.talked (if step = 0xFFFF#16 then [.getStep s.env.autoStep] else []) s.env := by
      unfold askEffStep stepSentinel
      split
      · rfl
      · exact (talked_nil s).symm
    rw [softwareCopy_eq, hask, talked_talked]
    rfl

/-- One segment of an XFER with hardware transfers whose Halt never returns (U13). -/
theorem issueSegment_of_never (cls : DestClass) (seg : Segment) (step : Half) (hx : p.hwXfer = .enabled)
    (h : ¬HaltsReturn s.env 1) :
    issueSegment p cls seg step after s =
      hungTransfer p (s.talked (stepEvents s.env.autoStep step) { s.env with autoStep := effStep step s })
        (packDesc p cls seg.src seg.dst seg.len (effStep step s)) := by
  simp only [issueSegment, issueHardware, hx]
  rw [stepSetup_eq, descriptor_triggerSeq_of_never]
  exact h

/-- What FILL writes before its trigger sequence (R204). -/
theorem fillHead_eq (dst len step : Half) :
    writeCtrl16 fillSuffixWord (writeLength (packLen (fillAdjust dst len)) (setStepUnlessSentinel step s)) =
      s.talked ((if step = 0xFFFF#16 then [] else [.setStep step]) ++ [.cw32 (packLen (fillAdjust dst len)), .cw16 0x9780#16])
        { s.env with autoStep := effStep step s, overrun := s.env.overrun || s.env.engine != .idle } := by
  unfold setStepUnlessSentinel effStep stepSentinel
  split <;> simp [setAutoStep_eq, writeLength_eq, writeCtrl16_eq, fillSuffixWord]

/-- A fill after its wait, whose Halt returns (R204). -/
theorem fillFromIdle_eq (dst len : Half) (val : Byte) (step : Half) (h : HaltsReturn s.env 1) :
    fillFromIdle p dst len val step s =
      respond 1#32
        (s.talked
          ((if step = 0xFFFF#16 then [] else [.setStep step]) ++
            [.cw32 (packLen (fillAdjust dst len)), .cw16 0x9780#16, .taken s.env.busTaken, .halt,
              .cw32 (p.fillTrigWord dst), .dw16 (fillData val)] ++ resumeEvents s.env.busTaken)
          { s.env.triggered with autoStep := effStep step s, overrun := s.env.overrun || s.env.engine != .idle }) := by
  rw [fillFromIdle, fillHead_eq, triggerSeqThen_writeData_eq, talked_talked]
  · simp only [List.append_assoc, talked_env]
    rfl
  · exact h

/-- A fill after its wait, whose Halt never returns (U13). -/
theorem fillFromIdle_of_never (dst len : Half) (val : Byte) (step : Half) (h : ¬HaltsReturn s.env 1) :
    fillFromIdle p dst len val step s =
      State.hungInHalt
        (s.talked
          ((if step = 0xFFFF#16 then [] else [.setStep step]) ++
            [.cw32 (packLen (fillAdjust dst len)), .cw16 0x9780#16, .taken s.env.busTaken])
          { s.env with autoStep := effStep step s, overrun := s.env.overrun || s.env.engine != .idle }) := by
  rw [fillFromIdle, fillHead_eq, triggerSeqThen_of_never, talked_talked, List.append_assoc]
  · rfl
  · exact h

/-- What COPY writes before its trigger sequence (R206). -/
theorem copyHead_eq (srcoff dst len step : Half) :
    writeCtrl16 copySuffixWord
        (writeDescriptorHead p
          { w1 := packLen len, w2 := packMid (copyAddr srcoff) (effStep step s), w3 := packHiLo (copyAddr srcoff),
            w4 := p.copyTrigWord dst }
          (setStepUnlessSentinel step (askEffStep step s))) =
      s.talked
        (stepEvents s.env.autoStep step ++
          [.cw32 (packLen len), .cw32 (packMid (copyAddr srcoff) (effStep step s)), .cw32 (packHiLo (copyAddr srcoff)),
            .cw16 0x97C0#16])
        { s.env with
          autoStep := stepAfterW2 p (packMid (copyAddr srcoff) (effStep step s)) (effStep step s)
          overrun := s.env.overrun || s.env.engine != .idle } := by
  simp [stepSetup_eq, writeDescriptorHead_eq, writeCtrl16_eq, copySuffixWord]

/-- A copy after its wait, whose Halt returns (R206). -/
theorem copyFromIdle_eq (srcoff dst len step : Half) (h : HaltsReturn s.env 1) :
    copyFromIdle p srcoff dst len step s =
      respond 1#32
        (s.talked
          (stepEvents s.env.autoStep step ++
            [.cw32 (packLen len), .cw32 (packMid (copyAddr srcoff) (effStep step s)), .cw32 (packHiLo (copyAddr srcoff)),
              .cw16 0x97C0#16, .taken s.env.busTaken, .halt, .cw32 (p.copyTrigWord dst)] ++ resumeEvents s.env.busTaken)
          ({ s.env with autoStep := effStep step s }.afterTransfer p (packMid (copyAddr srcoff) (effStep step s)))) := by
  simp only [copyFromIdle, copyHead_eq]
  rw [triggerSeq_eq, talked_talked]
  · simp only [List.append_assoc, talked_env]
    rfl
  · exact h

/-- A copy after its wait, whose Halt never returns (U13). -/
theorem copyFromIdle_of_never (srcoff dst len step : Half) (h : ¬HaltsReturn s.env 1) :
    copyFromIdle p srcoff dst len step s =
      State.hungInHalt
        (s.talked
          (stepEvents s.env.autoStep step ++
            [.cw32 (packLen len), .cw32 (packMid (copyAddr srcoff) (effStep step s)), .cw32 (packHiLo (copyAddr srcoff)),
              .cw16 0x97C0#16, .taken s.env.busTaken])
          { s.env with
            autoStep := stepAfterW2 p (packMid (copyAddr srcoff) (effStep step s)) (effStep step s)
            overrun := s.env.overrun || s.env.engine != .idle }) := by
  simp only [copyFromIdle, copyHead_eq]
  rw [triggerSeq, triggerSeqThen_of_never, talked_talked, List.append_assoc]
  · rfl
  · exact h

end Transfer

end Sys2Proof.Machine
end

