-- ==== Sys2Proof/Tests/Slice0.lean ====
section
/-!
SUPPORT. Tests of the model, and for every obligation with hypotheses a state and operands that meet them.

Expected results are those of 95_test_vectors.md and of the worked examples of the rules; each test names its vector. The
trigger words, symbolic there, are `testParams`' own.
-/

namespace Sys2Proof.Machine.Tests

open Sys2Proof Sys2Proof.Machine

/-! ### Small states -/

def testParams : Params where
  hwXfer := .enabled
  haltScope := .perTrigger
  trigWord := fun cls dst => 0xA0#8 ++ 0#6 ++ cls.toField ++ dst
  fillTrigWord := fun dst => 0xF000#16 ++ dst
  copyTrigWord := fun dst => 0xC000#16 ++ dst
  ctrlAddr := 0
  dataAddr := 0
  stepTracksW2 := true
  stepAfterSpoiltW2 := fun old _ => old
  srcHighByteFirst := true
  diagnostics := true

def testEnv (autoStep : Half := 2#16) (busTaken : Bool := false) (engine : Engine := .idle)
    (afterTrigger : List Engine := []) (releases : List Release := []) : Env :=
  { autoStep := autoStep, busTaken := busTaken, engine := engine, afterTrigger := afterTrigger, releases := releases,
    pending := false, overrun := false }

/-- A state written as 95_test_vectors.md writes them. -/
def testState (cap qcount ovfidx : Half) (qbytes budget : Word) (cfg : BitVec 2) (env : Env := testEnv)
    (slots : Slots := []) : State :=
  { cap := cap, qcount := qcount, ovfidx := ovfidx, qbytes := qbytes, budget := budget, cfg := cfg, resp := 0#32,
    slots := slots, slotGen := 0, held := none, inputs := [], trace := [], env := env, srcMem := [] }

/-- An initialised, empty queue. -/
def emptyQueue : State := testState 4#16 0#16 0#16 0#32 0#32 0#2

/-- What the vectors show of a state. -/
def shown (s : State) : Half × Half × Half × Word × Word × BitVec 2 := (s.cap, s.qcount, s.ovfidx, s.qbytes, s.budget, s.cfg)

def nextOf : Host.Outcome State Fault Refusal → Option State
  | .next t => some t
  | .fault _ => none
  | .refused _ => none

/-- The trace with what a command answers. -/
def talk (s : State) : List Event × Word := (s.trace, s.resp)

/-! ### WellFormed: an ill-formed term for each check -/

theorem test_wellFormed_refuses_odd_enq : (Instr.enq .a 0x001001#24 0#16 4#16 2#16).wellFormed = false := by decide
theorem test_wellFormed_refuses_odd_xfer : (Instr.xfer .a 0xFFFFFF#24 0#16 4#16 2#16).wellFormed = false := by decide
theorem test_wellFormed_refuses_odd_swcopy : (Instr.swcopy 0#32 0x000001#24 4#16 2#16).wellFormed = false := by decide
theorem test_wellFormed_refuses_w1_as_trigger : (Instr.w4Trigger 0x94129334#32).wellFormed = false := by decide
theorem test_wellFormed_refuses_w2_as_trigger : (Instr.w4Trigger 0x961A8F02#32).wellFormed = false := by decide
theorem test_wellFormed_refuses_w3_as_trigger : (Instr.w4Trigger 0x9709952B#32).wellFormed = false := by decide

/-! ### Decoding of words written out (programs P1 to P6; V-PK) -/

theorem test_decode_init :
    decode (.packet ⟨0x01000000#32, 0x00000004#32, 0x00000000#32, 0x00000000#32⟩) = .ok (.init 4#16 0#32) := by decide
theorem test_decode_setcfg :
    decode (.packet ⟨0x02000000#32, 0x00000000#32, 0x00000000#32, 0x00000001#32⟩) = .ok (.setcfg true false) := by decide
theorem test_decode_enq :
    decode (.packet ⟨0x0301FFF0#32, 0x10000010#32, 0x00020000#32, 0x00000000#32⟩) =
      .ok (.enq .a 0x01FFF0#24 0x1000#16 16#16 2#16) := by decide
theorem test_decode_clrq :
    decode (.packet ⟨0x04000000#32, 0x00000000#32, 0x00000000#32, 0x00000000#32⟩) = .ok .clrq := by decide
theorem test_decode_qsize :
    decode (.packet ⟨0x05000000#32, 0x00000000#32, 0x00000000#32, 0x00000000#32⟩) = .ok .qsize := by decide
theorem test_decode_qbytes :
    decode (.packet ⟨0x06000000#32, 0x00000000#32, 0x00000000#32, 0x00000000#32⟩) = .ok .qbytes := by decide
theorem test_decode_qovf :
    decode (.packet ⟨0x07000000#32, 0x00000000#32, 0x00000000#32, 0x00000000#32⟩) = .ok .qovf := by decide
theorem test_decode_flush :
    decode (.packet ⟨0x08000000#32, 0x00000000#32, 0x00000000#32, 0x00000000#32⟩) = .ok .flush := by decide
theorem test_decode_xfer :
    decode (.packet ⟨0x0903FFFC#32, 0x20000006#32, 0x00040002#32, 0x00000000#32⟩) =
      .ok (.xfer .c 0x03FFFC#24 0x2000#16 6#16 4#16) := by decide
theorem test_decode_fill :
    decode (.packet ⟨0x0A000000#32, 0x00010005#32, 0x00013C00#32, 0x00000000#32⟩) =
      .ok (.fill 0x0001#16 5#16 0x3C#8 1#16) := by decide
theorem test_decode_copy :
    decode (.packet ⟨0x0B008001#32, 0x40000100#32, 0xFFFF0000#32, 0x00000000#32⟩) =
      .ok (.copy 0x8001#16 0x4000#16 0x0100#16 0xFFFF#16) := by decide
theorem test_decode_swcopy :
    decode (.packet ⟨0x0CFFFFFE#32, 0x00000002#32, 0x00020000#32, 0x40000080#32⟩) =
      .ok (.swcopy 0x40000080#32 0xFFFFFE#24 2#16 2#16) := by decide
theorem test_decode_w1Length : decode (.port32 0x94AB93CD#32) = .ok (.w1Length 0xABCD#16) := by decide
theorem test_decode_w2MidStep : decode (.port32 0x961A8F02#32) = .ok (.w2MidStep 0x1A#8 0x02#8) := by decide
theorem test_decode_w3HiLo : decode (.port32 0x9709952B#32) = .ok (.w3HiLo 0x09#7 0x2B#8) := by decide
theorem test_decode_w4Trigger : decode (.port32 0x40000080#32) = .ok (.w4Trigger 0x40000080#32) := by decide
theorem test_decode_fillSuffix : decode (.port16 0x9780#16) = .ok .fillSuffix := by decide
theorem test_decode_copySuffix : decode (.port16 0x97C0#16) = .ok .copySuffix := by decide
theorem test_decode_fillData : decode (.port16 0xA5A5#16) = .ok (.fillData 0xA5#8) := by decide

/-- V-BC-1 to V-BC-4. -/
theorem test_decode_refuses_bad_packets :
    decode (.packet ⟨0#32, 0#32, 0#32, 0#32⟩) = .error (.reservedOpcode 0#8) ∧
    decode (.packet ⟨0x0D000000#32, 0#32, 0#32, 0#32⟩) = .error (.reservedOpcode 0x0D#8) ∧
    decode (.packet ⟨0x08000000#32, 0x00000001#32, 0#32, 0#32⟩) = .error .fieldNotZero ∧
    decode (.packet ⟨0x03001000#32, 0x0100000A#32, 0x00020004#32, 0#32⟩) = .error .fieldNotZero := by decide

/-- V-ENQ-13, V-CFG-1, V-CP-4, V-SW-4; P6 lines 5 to 7. -/
theorem test_decode_refuses_bad_operands :
    decode (.packet ⟨0x03001001#32, 0x00000004#32, 0x00020000#32, 0#32⟩) = .error .oddSource ∧
    decode (.packet ⟨0x03001000#32, 0x00000004#32, 0x00020003#32, 0#32⟩) = .error .reservedClass ∧
    decode (.packet ⟨0x03001000#32, 0x00000004#32, 0x00020100#32, 0#32⟩) = .error .fieldNotZero ∧
    decode (.packet ⟨0x02000000#32, 0#32, 0#32, 0x00000004#32⟩) = .error .fieldNotZero ∧
    decode (.packet ⟨0x0B010000#32, 0#32, 0#32, 0#32⟩) = .error .fieldNotZero ∧
    decode (.packet ⟨0x0C001000#32, 0x00010002#32, 0x00020000#32, 0#32⟩) = .error .fieldNotZero ∧
    decode (.packet ⟨0xFF000000#32, 0#32, 0#32, 0#32⟩) = .error (.reservedOpcode 0xFF#8) := by decide

/-- A lone 16-bit word that is no suffix and whose bytes differ (log 12). -/
theorem test_decode_refuses_unlisted_port_word : decode (.port16 0x9781#16) = .error (.unlistedPortWord 0x9781#16) := by decide

theorem test_decodeTableWord_packet :
    decodeTableWord 128 0x0A000000000100050001_3C00_00000000 = some (.fill 0x0001#16 5#16 0x3C#8 1#16) := by decide
theorem test_decodeTableWord_port_words :
    decodeTableWord 32 0x94129334 = some (.w1Length 0x1234#16) ∧ decodeTableWord 16 0x97C0 = some .copySuffix := by decide

/-- A placed instruction is the next one to run. -/
theorem test_withFetchWord_runs :
    step (State.reset.withFetchWord 128 0x05000000000000000000000000000000) = exec .qsize State.reset ∧
    step (State.reset.withFetchWord 32 0x94129334) = exec (.w1Length 0x1234#16) State.reset := ⟨rfl, rfl⟩

/-! ### Packers, unpackers, decomposer, fill adjustment -/

/-- V-PK-1, V-PK-2, V-PK-3. -/
theorem test_pack :
    packLen 0x1234#16 = 0x94129334#32 ∧ packMid 0x123456#25 2#16 = 0x961A8F02#32 ∧
    packMid 0x123456#25 0x0100#16 = 0x961A9000#32 ∧ packMid 0x123456#25 0xFFFF#16 = 0x961B8EFF#32 ∧
    packMid 0x1000000#25 2#16 = 0x96008F02#32 ∧ packHiLo 0x123456#25 = 0x9709952B#32 ∧
    packHiLo 0xFFFFFE#25 = 0x977F95FF#32 ∧ packHiLo 0x1000000#25 = 0x97009500#32 ∧ fillData 0xA5#8 = 0xA5A5#16 := by decide

/-- V-PK-4. -/
theorem test_unpack :
    unpackLen 0x94129334#32 = 0x1234#16 ∧ unpackSrc 0x961A8F02#32 0x9709952B#32 = 0x123456#24 ∧
    unpackSrc 0x96FF8F02#32 0x977F95FF#32 = 0xFFFFFE#24 ∧ unpackStep 0x961A9000#32 = 0#16 ∧
    unpackSrc 0x961B8EFF#32 0x9709952B#32 = 0x123656#24 ∧ unpackStep 0x961B8EFF#32 = 0xFF#16 := by decide

/-- V-DC, the rows at the boundary and the row with both wraps. -/
theorem test_decompose :
    decompose 0x01FFF0#24 0x1000#16 8#16 = .whole ⟨0x01FFF0#25, 0x1000#16, 8#16⟩ ∧
    decompose 0x01FFF0#24 0x1000#16 9#16 = .split ⟨0x01FFF0#25, 0x1000#16, 8#16⟩ ⟨0x020000#25, 0x1008#16, 1#16⟩ ∧
    decompose 0x000002#24 0#16 0xFFFF#16 = .whole ⟨0x000002#25, 0#16, 0xFFFF#16⟩ ∧
    decompose 0x000004#24 0#16 0xFFFF#16 = .split ⟨0x000004#25, 0#16, 0xFFFE#16⟩ ⟨0x020000#25, 0xFFFE#16, 1#16⟩ ∧
    decompose 0xFFFFFE#24 0xFFFF#16 2#16 = .split ⟨0xFFFFFE#25, 0xFFFF#16, 1#16⟩ ⟨0x1000000#25, 0#16, 1#16⟩ := by decide

/-- R205, the whole table. -/
theorem test_fillAdjust :
    (([0, 1, 2, 5, 0xFFFF] : List Half).map (fillAdjust 0#16) = [0, 1, 1, 4, 0xFFFE]) ∧
    (([0, 1, 2, 3, 4, 5, 0xFFFF] : List Half).map (fillAdjust 1#16) = [0, 1, 1, 1, 2, 3, 0xFFFD]) := by decide

/-! ### Queue controller -/

/-- V-INIT-2: CFG is left alone. -/
theorem test_init :
    (nextOf (execInit 16#16 0#32 (testState 4#16 3#16 2#16 120#32 100#32 2#2))).map shown =
      some (16#16, 0#16, 0#16, 0#32, 0#32, 2#2) := by decide

/-- The example of R151: `SETCFG 0, 1` gives 0b10. -/
theorem test_setcfg : (nextOf (execSetcfg false true emptyQueue)).map State.cfg = some 2#2 := by decide

/-- V-ENQ-3: a crossing request, high segment first, one signal each. -/
theorem test_enq_crossing :
    let t := enqueue testParams .a 0x01FFF0#24 0x1000#16 16#16 2#16 (testState 4#16 0#16 0#16 0#32 0#32 1#2)
    shown t = (4#16, 2#16, 0#16, 32#32, 0#32, 1#2) ∧ t.trace = [.pend, .pend, .resp 1#32] ∧
      t.slot 0 = ⟨0x94009308#32, 0x96008F02#32, 0x97019500#32, 0xA0001008#32⟩ ∧
      t.slot 1 = ⟨0x94009308#32, 0x96FF8F02#32, 0x970095F8#32, 0xA0001000#32⟩ := by decide

/-- V-ENQ-11: the low segment of a split request crosses the budget. -/
theorem test_enq_over_budget :
    let t := enqueue testParams .a 0x01FFF0#24 0x1000#16 16#16 2#16 (testState 8#16 1#16 0#16 20#32 40#32 2#2)
    shown t = (8#16, 3#16, 2#16, 52#32, 40#32, 2#2) ∧ talk t = ([.diag (.warnBudget 52#32 40#32), .resp 0#32], 0#32) := by
  decide

/-- V-CLR-1. -/
theorem test_clrq :
    (nextOf (execClrq (testState 8#16 3#16 2#16 120#32 100#32 2#2))).map shown =
      some (8#16, 0#16, 0#16, 0#32, 100#32, 2#2) := by decide

/-- V-ACC-1. -/
theorem test_qsize : (nextOf (execQsize (testState 8#16 3#16 2#16 120#32 100#32 2#2))).map talk =
    some ([.resp 3#32], 3#32) := by decide
theorem test_qbytes : (nextOf (execQbytes (testState 8#16 3#16 2#16 120#32 100#32 2#2))).map talk =
    some ([.resp 120#32], 120#32) := by decide
theorem test_qovf : (nextOf (execQovf (testState 8#16 3#16 2#16 120#32 100#32 2#2))).map talk =
    some ([.resp 2#32], 2#32) := by decide

/-! ### Flush engine -/

/-- The two descriptors of program P3. -/
def p3Queue (env : Env) : State :=
  testState 4#16 2#16 0#16 32#32 0#32 1#2 env
    [(0, ⟨0x94009308#32, 0x96008F02#32, 0x97019500#32, 0xA0001008#32⟩),
     (1, ⟨0x94009308#32, 0x96FF8F02#32, 0x970095F8#32, 0xA0001000#32⟩)]

/-- Program P3, second trace (PER_BATCH), after its WAIT; the hardware step is 4 again at its end. -/
theorem test_flush_perBatch :
    let t := flushFromIdle { testParams with haltScope := .perBatch } (p3Queue (testEnv (autoStep := 4#16)))
    t.trace =
      [.getStep 4#16, .cw32 0x94009308#32, .cw32 0x96008F02#32, .cw32 0x97019500#32, .taken false, .halt,
        .cw32 0xA0001008#32, .cw32 0x94009308#32, .cw32 0x96FF8F02#32, .cw32 0x970095F8#32, .halt, .cw32 0xA0001000#32,
        .resume, .setStep 4#16, .resp 1#32] ∧
      t.env.autoStep = 4#16 ∧ t.env.busTaken = false ∧ t.qcount = 0#16 := by decide

/-- R181: under IGNOVER with OVFIDX = 1 only slot 0 is replayed; V-FL-3: no RESUME where the bus was taken already. -/
theorem test_flush_ignover_taken :
    let t := flushFromIdle testParams { p3Queue (testEnv (busTaken := true)) with ovfidx := 1#16, cfg := 2#2 }
    t.trace =
      [.getStep 2#16, .cw32 0x94009308#32, .cw32 0x96008F02#32, .cw32 0x97019500#32, .taken true, .halt,
        .cw32 0xA0001008#32, .setStep 2#16, .resp 1#32] := by decide

/-- U13: the second Halt of program P3's flush never returns; the first took two turns (PER_TRIGGER). -/
theorem test_flush_hangs_in_halt :
    let t := flushFromIdle testParams (p3Queue (testEnv (releases := [.after 2, .never])))
    t.held = some .inHalt ∧ t.qcount = 2#16 ∧ t.env.busTaken = true ∧
      t.trace =
        [.getStep 2#16, .cw32 0x94009308#32, .cw32 0x96008F02#32, .cw32 0x97019500#32, .taken false, .halt,
          .cw32 0xA0001008#32, .resume, .cw32 0x94009308#32, .cw32 0x96FF8F02#32, .cw32 0x970095F8#32, .taken false,
          .halt] := by decide

/-- R279: with the engine still busy after its first trigger, program P3's flush writes the second W1 into a running transfer. -/
theorem test_flush_overruns :
    (flushFromIdle testParams (p3Queue (testEnv (afterTrigger := [.busy 3])))).env.overrun = true ∧
    (flushFromIdle testParams (p3Queue (testEnv (afterTrigger := [.idle, .busy 3])))).env =
      { testEnv with engine := .busy 3 } := by decide

/-! ### Direct transfers and the copier -/

/-- Program P4: the high segment under the old step, the low one under the new. -/
theorem test_xfer_crossing :
    (transferNow testParams .c 0x03FFFC#24 0x2000#16 6#16 4#16 { emptyQueue with env := testEnv (autoStep := 1#16) }).trace =
      [.wait, .getStep 1#16, .cw32 0x94009304#32, .cw32 0x96008F01#32, .cw32 0x97029500#32, .taken false, .halt,
        .cw32 0xA0022002#32, .resume, .wait, .setStep 4#16, .cw32 0x94009302#32, .cw32 0x96FF8F04#32, .cw32 0x970195FE#32,
        .taken false, .halt, .cw32 0xA0022000#32, .resume, .resp 1#32] := by decide

/-- V-XF-2: the sentinel. -/
theorem test_xfer_sentinel :
    (transferNow testParams .a 0x123456#24 0x2000#16 0x1234#16 0xFFFF#16
      { emptyQueue with env := testEnv (autoStep := 4#16) }).trace =
      [.wait, .getStep 4#16, .cw32 0x94129334#32, .cw32 0x961A8F04#32, .cw32 0x9709952B#32, .taken false, .halt,
        .cw32 0xA0002000#32, .resume, .resp 1#32] := by decide

/-- V-FI-2, after its WAIT. -/
theorem test_fill :
    (fillFromIdle testParams 1#16 5#16 0x3C#8 1#16 emptyQueue).trace =
      [.setStep 1#16, .cw32 0x94009303#32, .cw16 0x9780#16, .taken false, .halt, .cw32 0xF0000001#32, .dw16 0x3C3C#16,
        .resume, .resp 1#32] := by decide

/-- V-FI-4, after its WAIT: sentinel, and the bus already taken. -/
theorem test_fill_sentinel_taken :
    (fillFromIdle testParams 2#16 2#16 0x00#8 0xFFFF#16 { emptyQueue with env := testEnv (busTaken := true) }).trace =
      [.cw32 0x94009301#32, .cw16 0x9780#16, .taken true, .halt, .cw32 0xF0000002#32, .dw16 0x0000#16, .resp 1#32] := by
  decide

/-- V-CP-1, after its WAIT. -/
theorem test_copy_sentinel :
    (copyFromIdle testParams 0x1234#16 0x4000#16 0x0010#16 0xFFFF#16 emptyQueue).trace =
      [.getStep 2#16, .cw32 0x94009310#32, .cw32 0x96128F02#32, .cw32 0x97009534#32, .cw16 0x97C0#16, .taken false, .halt,
        .cw32 0xC0004000#32, .resume, .resp 1#32] := by decide

/-- V-CP-2, after its WAIT. -/
theorem test_copy_step :
    (copyFromIdle testParams 0xFFFF#16 0x0000#16 1#16 2#16 emptyQueue).trace =
      [.setStep 2#16, .cw32 0x94009301#32, .cw32 0x96FF8F02#32, .cw32 0x970095FF#32, .cw16 0x97C0#16, .taken false, .halt,
        .cw32 0xC0000000#32, .resume, .resp 1#32] := by decide

/-- V-SW-3: the address wraps. -/
theorem test_swcopy_wraps :
    (softwareCopy testParams 0x40000080#32 0xFFFFFE#24 2#16 2#16
      { emptyQueue with srcMem := [(0, 0x56#8), (1, 0x78#8), (0xFFFFFE, 0x12#8), (0xFFFFFF, 0x34#8)] }).trace =
      [.setStep 2#16, .cw32 0x40000080#32, .srcRd 0xFFFFFE#24 0x1234#16, .dw16 0x1234#16, .srcRd 0#24 0x5678#16,
        .dw16 0x5678#16] := by decide

/-! ### Register Port words -/

/-- V-PK: the words of (0x1234, 0x123456, 2), each written by the host's own means. -/
theorem test_port_words :
    (nextOf (execW1Length 0x1234#16 emptyQueue)).map State.trace = some [.cw32 0x94129334#32] ∧
    writeMid testParams (midWord 0x1A#8 0x02#8) emptyQueue =
      { emptyQueue with trace := [.cw32 0x961A8F02#32], env := testEnv (autoStep := 2#16) } ∧
    (nextOf (execW3HiLo 0x09#7 0x2B#8 emptyQueue)).map State.trace = some [.cw32 0x9709952B#32] ∧
    (nextOf (execFillSuffix emptyQueue)).map State.trace = some [.cw16 0x9780#16] ∧
    (nextOf (execCopySuffix emptyQueue)).map State.trace = some [.cw16 0x97C0#16] ∧
    (nextOf (execFillData 0x3C#8 emptyQueue)).map State.trace = some [.dw16 0x3C3C#16] := by decide

/-- A trigger word starts the engine, which is then what the environment says it will be. -/
theorem test_trigger_starts_engine :
    (nextOf (execW4Trigger 0x40000080#32 { emptyQueue with env := testEnv (afterTrigger := [.busy 3, .never]) })).map
      State.env = some (testEnv (engine := .busy 3) (afterTrigger := [.never])) := by decide

/-! ### Hypotheses of the obligations met

For each obligation with hypotheses, a concrete state and operands that meet all of them; where it has several clauses, each clause,
at values where clauses meet. -/

/-- A state with a packet or port word handed over next. -/
def handed (f : Fetched) : State := { emptyQueue with inputs := [.fetch f] }

/-- The packet with a given first word and all others zero. -/
def bare (p0 : Word) : Packet := ⟨p0, 0#32, 0#32, 0#32⟩

/-- The engine busy, for `n + 1` turns of its own or for ever. -/
def withEngine (e : Engine) (s : State := emptyQueue) : State := { s with env := testEnv (engine := e) }

theorem witness_DecodeUndoesEncode :
    (Instr.enq .c 0xFFFFFE#24 1#16 0xFFFF#16 0xFFFF#16).wellFormed = true ∧
    (Instr.swcopy 0xFFFFFFFF#32 0#24 1#16 1#16).wellFormed = true ∧
    (Instr.w4Trigger 0x97809500#32).wellFormed = true ∧ (Instr.fillData 0x97#8).wellFormed = true := by decide

theorem witness_PacketsDecodeTotallyAndInjectively :
    decodePacket (bare 0x08000000#32) = .ok .flush ∧
    (0 < (bare 0x01000000#32).op.toNat ∧ (bare 0x01000000#32).op.toNat < 13 ∧
      reservedFieldValue (bare 0x01000000#32) = false) ∧
    (0 < (bare 0x0C000000#32).op.toNat ∧ (bare 0x0C000000#32).op.toNat < 13 ∧
      reservedFieldValue (bare 0x0C000000#32) = false) := by decide

theorem witness_ReservedOpcodesAreBadCommands :
    ((handed (.packet (bare 0#32))).held = none ∧
      (handed (.packet (bare 0#32))).inputs = [.fetch (.packet (bare 0#32))] ∧ (bare 0#32).op.toNat = 0) ∧
    13 ≤ (bare 0x0D000000#32).op.toNat ∧ 13 ≤ (bare 0xFF000000#32).op.toNat := by decide

theorem witness_ReservedFieldValuesAreBadCommands :
    ((handed (.packet (bare 0x01000000#32))).held = none ∧
      (handed (.packet (bare 0x01000000#32))).inputs = [.fetch (.packet (bare 0x01000000#32))] ∧
      0 < (bare 0x01000000#32).op.toNat ∧ (bare 0x01000000#32).op.toNat < 13 ∧
      reservedFieldValue (bare 0x01000000#32) = false) ∧
    (0 < (bare 0x0C000001#32).op.toNat ∧ (bare 0x0C000001#32).op.toNat < 13 ∧
      reservedFieldValue (bare 0x0C000001#32) = true) := by decide

theorem witness_DecodedInstructionsMatchTheirTableRow :
    decode (.packet (bare 0x08000000#32)) = .ok .flush ∧ decode (.port32 0x970095FF#32) = .ok (.w3HiLo 0#7 0xFF#8) ∧
    decode (.port16 0x9780#16) = .ok .fillSuffix := by decide

theorem witness_UnpackInvertsPack :
    (srcEven 0xFFFFFE#24 = true ∧ (0x70FF#16 : Half).toNat < 0x7100 ∧
      unpackSrc (packMid 0xFFFFFE#25 0x70FF#16) (packHiLo 0xFFFFFE#25) = 0xFFFFFE#24) ∧
    (¬(0x7100#16 : Half).toNat < 0x7100 ∧ unpackSrc (packMid 0xFFFFFE#25 0x7100#16) (packHiLo 0xFFFFFE#25) ≠ 0xFFFFFE#24) ∧
    (0xFF#16 : Half).toNat ≤ 0xFF := by decide

theorem witness_DecomposeCutsAtTheBankBoundary :
    srcEven 0x01FFFE#24 = true ∧
    2 * (1#16 : Half).toNat ≤ 0x20000 - (0x01FFFE#24 : SrcAddr).toNat % 0x20000 ∧
    0x20000 - (0x01FFFE#24 : SrcAddr).toNat % 0x20000 < 2 * (2#16 : Half).toNat := by decide

theorem witness_EnqRefusesWhenTheQueueIsFull :
    srcEven 0x01FFF0#24 = true ∧
    (let s := testState 4#16 4#16 0#16 80#32 0#32 0#2
     s.cap.toNat ≤ s.qcount.toNat) ∧
    (let s := testState 2#16 1#16 0#16 8#32 0#32 0#2
     0x20000 - (0x01FFF0#24 : SrcAddr).toNat % 0x20000 < 2 * (9#16 : Half).toNat ∧ s.cap.toNat < s.qcount.toNat + 2) := by
  decide

theorem witness_OddSourceAddressesAreRefused : srcEven 0x000001#24 = false ∧ srcEven 0xFFFFFF#24 = false := by decide

/-- 8 words up to the boundary into the last free slot; 20 + 16 = 36 bytes against budgets of 36 and 35. -/
theorem witness_EnqStoresAWholeRequest :
    (srcEven 0x01FFF0#24 = true ∧ 2 * (8#16 : Half).toNat ≤ 0x20000 - (0x01FFF0#24 : SrcAddr).toNat % 0x20000 ∧
      (testState 4#16 3#16 0#16 20#32 36#32 3#2).qcount.toNat < (testState 4#16 3#16 0#16 20#32 36#32 3#2).cap.toNat) ∧
    (let above (s : State) : Prop :=
       s.budget ≠ 0#32 ∧ s.budget.toNat < (s.qbytes + 2#32 * (8#16 : Half).setWidth 32 : Word).toNat
     let fits := testState 4#16 3#16 0#16 20#32 36#32 3#2
     let first := testState 4#16 3#16 0#16 20#32 35#32 3#2
     let later := testState 4#16 3#16 1#16 20#32 35#32 0#2
     ¬above fits ∧ above first ∧ first.ovfidx = 0#16 ∧ first.ignover = true ∧ above later ∧ later.ovfidx ≠ 0#16 ∧
       later.ignover = false ∧ fits.autoflush = true ∧ later.autoflush = false) := by decide

/-- 8 + 8 words across a boundary into the last two free slots; 20, then 36, then 52 bytes against budgets 52, 51, 36, 35. -/
theorem witness_EnqStoresACrossingRequestHighFirst :
    (srcEven 0x01FFF0#24 = true ∧ 0x20000 - (0x01FFF0#24 : SrcAddr).toNat % 0x20000 < 2 * (16#16 : Half).toNat ∧
      (testState 4#16 2#16 0#16 20#32 52#32 3#2).qcount.toNat + 2 ≤ (testState 4#16 2#16 0#16 20#32 52#32 3#2).cap.toNat) ∧
    (let overHigh (s : State) : Prop := s.budget ≠ 0#32 ∧ s.budget.toNat < (s.qbytes + 16#32 : Word).toNat
     let overBoth (s : State) : Prop := s.budget ≠ 0#32 ∧ s.budget.toNat < (s.qbytes + 32#32 : Word).toNat
     let neither := testState 4#16 2#16 0#16 20#32 52#32 3#2
     let lowOnly := testState 4#16 2#16 0#16 20#32 51#32 0#2
     let lowStill := testState 4#16 2#16 0#16 20#32 36#32 2#2
     let high := testState 4#16 2#16 0#16 20#32 35#32 2#2
     let atZero := testState 4#16 0#16 0#16 0#32 10#32 2#2
     let recorded := testState 4#16 2#16 1#16 20#32 10#32 2#2
     ¬overHigh neither ∧ ¬overBoth neither ∧ ¬overHigh lowOnly ∧ overBoth lowOnly ∧ lowOnly.ignover = false ∧
       ¬overHigh lowStill ∧ overBoth lowStill ∧ lowStill.ignover = true ∧ overHigh high ∧ high.qcount ≠ 0#16 ∧
       overHigh atZero ∧ atZero.qcount = 0#16 ∧ overBoth atZero ∧ recorded.ovfidx ≠ 0#16 ∧
       neither.autoflush = true ∧ lowOnly.autoflush = false) := by decide

theorem witness_EnqTalksToNoEngine : ∃ t, exec (.enq .a 0x001000#24 0#16 4#16 2#16) emptyQueue = .next t := ⟨_, rfl⟩

theorem witness_OverflowIndexStaysUntilCleared :
    (∃ t, exec .clrq (testState 8#16 3#16 2#16 120#32 100#32 2#2) = .next t) ∧
    (∃ t, exec .qsize (testState 8#16 3#16 2#16 120#32 100#32 2#2) = .next t) ∧
    (testState 8#16 3#16 2#16 120#32 100#32 2#2).ovfidx ≠ 0#16 := ⟨⟨_, rfl⟩, ⟨_, rfl⟩, by decide⟩

/-- A Halt returns where the bus is taken already, whatever the coprocessor would answer. -/
theorem haltsReturn_taken (k : Nat) : HaltsReturn (testEnv (busTaken := true) (releases := [.never])) k := .inl rfl

/-- Every Halt returns where the coprocessor's answers are used up. -/
theorem haltsReturn_free (k : Nat) : HaltsReturn testEnv k := .inr fun r hr => by simp [testEnv] at hr

theorem witness_FlushReplaysTheQueueAndClearsIt :
    (withEngine (.busy 0)).env.engine ≠ .idle ∧
    (let s := testState 8#16 3#16 2#16 120#32 100#32 2#2
     s.env.engine = .idle ∧ s.ovfidx ≠ 0#16 ∧ s.ignover = true ∧ HaltsReturn s.env (flushHalts Config.params 2)) ∧
    (let s := testState 8#16 3#16 2#16 120#32 100#32 0#2 (testEnv (busTaken := true) (releases := [.never]))
     s.env.engine = .idle ∧ ¬(s.ovfidx ≠ 0#16 ∧ s.ignover = true) ∧ HaltsReturn s.env (flushHalts Config.params 3)) :=
  ⟨by decide, ⟨rfl, by decide, by decide, haltsReturn_free _⟩, rfl, by decide, haltsReturn_taken _⟩

theorem witness_FlushHasItsFiveProperties :
    (p3Queue testEnv).env.engine = .idle ∧
    HaltsReturn (p3Queue testEnv).env (flushHalts Config.params (p3Queue testEnv).replayCount.toNat) :=
  ⟨rfl, haltsReturn_free _⟩

/-- The second of the two Halts of program P3's flush never returns; and the first. -/
theorem witness_FlushHangsInAHaltThatNeverReturns :
    (let s := p3Queue (testEnv (releases := [.after 2, .never]))
     s.env.engine = .idle ∧ s.env.busTaken = false ∧ HaltsReturn s.env 1 ∧ s.env.releases[1]? = some .never ∧
       ¬(s.ovfidx ≠ 0#16 ∧ s.ignover = true) ∧ 1 < s.qcount.toNat) ∧
    (let s := p3Queue (testEnv (releases := [.never]))
     s.env.engine = .idle ∧ s.env.busTaken = false ∧ HaltsReturn s.env 0 ∧ s.env.releases[0]? = some .never ∧
       0 < s.qcount.toNat) :=
  ⟨⟨rfl, rfl, .inr (by decide), rfl, by decide, by decide⟩, rfl, rfl, .inr (by decide), rfl, by decide⟩

/-- Program P3's flush with the engine busy after its first trigger, where the premise fails, and after its last, where it holds;
and a direct command. -/
theorem witness_BusyHazardIsFlushWithoutItsPremise :
    (let s := p3Queue (testEnv (afterTrigger := [.busy 3]))
     s.env.engine = .idle ∧ HaltsReturn s.env (flushHalts Config.params 2) ∧ ¬TransfersOverByNextW1 s.env 2) ∧
    (let s := p3Queue (testEnv (afterTrigger := [.idle, .never]))
     TransfersOverByNextW1 s.env 2 ∧ ∃ t, exec .flush s = .next t) ∧
    (Instr.fill 0#16 5#16 0xA5#8 1#16 ≠ .flush ∧ ∃ t, exec (.fill 0#16 5#16 0xA5#8 1#16) emptyQueue = .next t) ∧
    ∃ t, resumeHeld (.lowSegment .a ⟨0x01FFF0#25, 0#16, 8#16⟩ 2#16) emptyQueue = .next t :=
  ⟨⟨rfl, .inr fun r hr => by simp [p3Queue, testState, testEnv] at hr,
      fun h => absurd (h (.busy 3) (by decide)) (by decide)⟩,
    ⟨show ∀ a ∈ [Engine.idle], a = .idle by decide, _, rfl⟩,
    ⟨by decide, _, rfl⟩, _, rfl⟩

/-- The bus taken; released after three turns; never released. -/
theorem witness_HaltReturnsOnceTheBusIsReleased :
    (testEnv (busTaken := true)).busTaken = true ∧
    (testEnv (releases := [.after 3])).releases = .after 3 :: [] ∧
    (testEnv (releases := [.never, .after 0])).releases = .never :: [.after 0] ∧ testEnv.busTaken = false := by decide

theorem witness_NeverReturningHaltHangsTheCommand :
    ({ emptyQueue with held := some .inHalt } : State).held = some .inHalt := rfl

theorem witness_NeverIdleEngineHangsTheCommand :
    let s := { withEngine .never with held := some (.start .flush) }
    s.held = some (.start .flush) ∧ s.env.engine = .never := by decide

theorem witness_BusyEngineLetsTheCommandGoOn :
    let s := { withEngine (.busy 0) with held := some (.start .flush) }
    s.held = some (.start .flush) ∧ s.env.engine = .busy 0 := by decide

theorem witness_HeldCommandRunsOnceTheEngineIsIdle :
    let s := { emptyQueue with held := some (.start .flush) }
    s.held = some (.start .flush) ∧ s.env.engine = .idle := by decide

theorem witness_XferIssuesAWholeRequest :
    srcEven 0x01FFF0#24 = true ∧ 2 * (8#16 : Half).toNat ≤ 0x20000 - (0x01FFF0#24 : SrcAddr).toNat % 0x20000 ∧
    emptyQueue.env.engine = .idle ∧ HaltsReturn emptyQueue.env (hardwareTransfers Config.params 1) :=
  ⟨by decide, by decide, rfl, haltsReturn_free _⟩

theorem witness_XferIssuesACrossingRequestHighFirst :
    srcEven 0x01FFF0#24 = true ∧ 0x20000 - (0x01FFF0#24 : SrcAddr).toNat % 0x20000 < 2 * (9#16 : Half).toNat ∧
    emptyQueue.env.engine = .idle ∧ (Config.params.hwXfer = .enabled → emptyQueue.env.afterNextTrigger = .idle) ∧
    HaltsReturn emptyQueue.env (hardwareTransfers Config.params 2) :=
  ⟨by decide, by decide, rfl, fun _ => rfl, haltsReturn_free _⟩

theorem witness_XferIsHeldBetweenItsSegments :
    let s := { emptyQueue with env := testEnv (afterTrigger := [.busy 0]) }
    srcEven 0x01FFF0#24 = true ∧ 0x20000 - (0x01FFF0#24 : SrcAddr).toNat % 0x20000 < 2 * (9#16 : Half).toNat ∧
    s.env.engine = .idle ∧ s.env.afterNextTrigger ≠ .idle ∧ HaltsReturn s.env (hardwareTransfers Config.params 1) :=
  ⟨by decide, by decide, rfl, by decide, .inr fun r hr => by simp [testEnv] at hr⟩

/-- A one-byte step, and the sentinel. -/
theorem witness_HeldXferIssuesItsLowSegment :
    let h : Held := .lowSegment .c ⟨0x03FFFC#25, 0x2000#16, 2#16⟩ 0xFF#16
    let s := { emptyQueue with held := some h }
    s.held = some h ∧ s.env.engine = .idle ∧ HaltsReturn s.env (hardwareTransfers Config.params 1) ∧
      (0xFF#16 : Half).toNat ≤ 0xFF ∧ s.env.autoStep.toNat ≤ 0xFF :=
  ⟨rfl, rfl, haltsReturn_free _, by decide, by decide⟩

/-- The coprocessor's next answer, and its second, is that it never releases the bus. -/
theorem witness_XferHangsInAHaltThatNeverReturns :
    (let e := testEnv (releases := [.never])
     srcEven 0x01FFF0#24 = true ∧ e.engine = .idle ∧ ¬HaltsReturn e 1) ∧
    (let e := testEnv (releases := [.after 0, .never])
     decompose 0x01FFF0#24 0x1000#16 9#16 = .split ⟨0x01FFF0#25, 0x1000#16, 8#16⟩ ⟨0x020000#25, 0x1008#16, 1#16⟩ ∧
       e.engine = .idle ∧ e.afterNextTrigger = .idle ∧ HaltsReturn e 1 ∧ ¬HaltsReturn e 2) ∧
    (let h : Held := .lowSegment .c ⟨0x03FFFC#25, 0x2000#16, 2#16⟩ 4#16
     let s := { emptyQueue with held := some h, env := testEnv (releases := [.never]) }
     s.held = some h ∧ s.env.engine = .idle ∧ ¬HaltsReturn s.env 1) := by
  refine ⟨⟨by decide, rfl, ?_⟩, ⟨by decide, rfl, rfl, .inr (by decide), ?_⟩, rfl, rfl, ?_⟩ <;>
    simp [HaltsReturn, testEnv]

/-- The engine busy; idle with the bus taken or released at once; idle with the bus never released. -/
theorem witness_FillIssuesItsSequence :
    (withEngine .never).env.engine ≠ .idle ∧
    (testEnv.engine = .idle ∧ HaltsReturn testEnv 1 ∧ HaltsReturn (testEnv (busTaken := true) (releases := [.never])) 1) ∧
    ((testEnv (releases := [.never])).engine = .idle ∧ ¬HaltsReturn (testEnv (releases := [.never])) 1) := by
  refine ⟨by decide, ⟨rfl, haltsReturn_free _, haltsReturn_taken _⟩, rfl, ?_⟩
  simp [HaltsReturn, testEnv]

theorem witness_CopyIssuesItsSequence :
    (withEngine (.busy 7)).env.engine ≠ .idle ∧ (testEnv.engine = .idle ∧ HaltsReturn testEnv 1) ∧
    ((testEnv (releases := [.never])).engine = .idle ∧ ¬HaltsReturn (testEnv (releases := [.never])) 1) := by
  refine ⟨by decide, ⟨rfl, haltsReturn_free _⟩, rfl, ?_⟩
  simp [HaltsReturn, testEnv]

theorem witness_SwcopyCopiesWordByWord : srcEven 0xFFFFFE#24 = true := by decide

/-- FILL with the largest one-byte step, and with the sentinel where the step was the largest of one byte. -/
theorem witness_DirectOperationsLeaveTheirStep :
    (∃ t, exec (.fill 0#16 5#16 0xA5#8 0x00FF#16) emptyQueue = .next t ∧ t.held = none) ∧
    (∃ t, exec (.fill 0#16 5#16 0xA5#8 0xFFFF#16) { emptyQueue with env := testEnv (autoStep := 0x00FF#16) } = .next t ∧
      t.held = none) ∧
    emptyQueue.held = none ∧ (0x00FF#16 : Half).toNat ≤ 0xFF := ⟨⟨_, rfl, rfl⟩, ⟨_, rfl, rfl⟩, rfl, by decide⟩

theorem witness_OnlyTheListedCommandsWriteEachRegister :
    (∃ t, exec (.init 4#16 0#32) emptyQueue = .next t) ∧ ∃ t, exec .flush emptyQueue = .next t := ⟨⟨_, rfl⟩, ⟨_, rfl⟩⟩

theorem witness_EveryCommandEndsByWritingResp :
    Instr.qsize.isCommand = true ∧ emptyQueue.held = none ∧ ∃ t, exec .qsize emptyQueue = .next t ∧ t.held = none :=
  ⟨rfl, rfl, _, rfl, rfl⟩

/-- Each line of R100 that a command of its own has: ENQ taken and refused, the accessors, XFER and SWCOPY with even and odd source,
and one of the others. -/
theorem witness_RespValuesPerCommand :
    emptyQueue.held = none ∧
    (∃ t, exec (.enq .a 0x001000#24 0#16 4#16 2#16) emptyQueue = .next t ∧ t.held = none) ∧
    (∃ t, exec (.enq .a 0x001001#24 0#16 4#16 2#16) emptyQueue = .next t ∧ t.held = none) ∧
    (∃ t, exec .qsize emptyQueue = .next t ∧ t.held = none) ∧
    (∃ t, exec .qbytes emptyQueue = .next t ∧ t.held = none) ∧
    (∃ t, exec .qovf emptyQueue = .next t ∧ t.held = none) ∧
    (∃ t, exec (.xfer .a 0x001000#24 0#16 4#16 2#16) emptyQueue = .next t ∧ t.held = none) ∧
    (∃ t, exec (.xfer .a 0x001001#24 0#16 4#16 2#16) emptyQueue = .next t ∧ t.held = none) ∧
    (∃ t, exec (.swcopy 0#32 0x001000#24 4#16 2#16) emptyQueue = .next t ∧ t.held = none) ∧
    (∃ t, exec (.swcopy 0#32 0x001001#24 4#16 2#16) emptyQueue = .next t ∧ t.held = none) ∧
    (∃ t, exec .clrq emptyQueue = .next t ∧ t.held = none) := by
  have hraise : (raise Config.params .badCommand emptyQueue).held = none := by rw [raise_eq]; rfl
  refine ⟨rfl, ⟨_, rfl, ?_⟩, ⟨_, rfl, hraise⟩, ⟨_, rfl, rfl⟩, ⟨_, rfl, rfl⟩, ⟨_, rfl, rfl⟩, ⟨_, rfl, ?_⟩, ⟨_, rfl, hraise⟩,
    ⟨_, rfl, rfl⟩, ⟨_, rfl, hraise⟩, ⟨_, rfl, rfl⟩⟩
  · show (storeOne Config.params .a ⟨0x001000#25, 0#16, 4#16⟩ 2#16 emptyQueue).held = none
    rw [storeOne_eq]
    rfl
  · show (issueSegment Config.params .a ⟨0x001000#25, 0#16, 4#16⟩ 2#16 (respond 1#32) (emptyQueue.emit .wait)).held = none
    rw [issueSegment_eq]
    · rfl
    · exact .inr fun r hr => by simp [emptyQueue, testState, testEnv] at hr

theorem witness_NoCommandWritesSourceMemory :
    (∃ t, exec .flush emptyQueue = .next t) ∧ ∃ t, resumeHeld (.start .flush) emptyQueue = .next t := ⟨⟨_, rfl⟩, ⟨_, rfl⟩⟩

theorem witness_OnlyFourCommandsCanBeHeld :
    (withEngine (.busy 0)).env.engine ≠ .idle ∧ srcEven 0x001000#24 = true ∧ srcEven 0x001001#24 = false ∧
    Instr.swcopy 0#32 0#24 1#16 1#16 ≠ .flush := by decide

theorem witness_ResetFailsClosed : State.reset.cap = 0#16 := rfl

theorem witness_HardwareResetTouchesNoCollaborator :
    let s := { emptyQueue with inputs := [.reset] }
    s.held = none ∧ s.inputs = [.reset] := ⟨rfl, rfl⟩

/-- One queued descriptor of 10 words at 0x001000, and the command that stores a second one handed over. -/
def oneQueued : State :=
  { testState 4#16 1#16 0#16 20#32 0#32 0#2 testEnv [(0, packDesc Config.params .a 0x001000#25 0x0100#16 10#16 2#16)] with
    inputs := [.fetch (.packet ⟨0x03002000#32, 0x0200000A#32, 0x00020000#32, 0#32⟩)] }

theorem witness_EveryStepKeepsTheQueueInvariants : QueueInv oneQueued ∧ ∃ t, step oneQueued = .next t := by
  refine ⟨⟨by decide, by decide, rfl, fun _ => by decide, ?_⟩, ⟨_, rfl⟩⟩
  intro i hi
  obtain rfl : i = 0 := Nat.lt_one_iff.mp hi
  exact ⟨.a, 0x001000#25, 0x0100#16, 10#16, 2#16, rfl, by decide, by decide⟩

theorem witness_EveryStepKeepsTheCanonicalForms :
    CanonicalForms (handed (.packet (bare 0x04000000#32))) ∧
    ∃ t, step (handed (.packet (bare 0x04000000#32))) = .next t := ⟨⟨rfl, rfl⟩, ⟨_, rfl⟩⟩

theorem witness_StepRunsTheDecodedInstruction :
    let f : Fetched := .packet (bare 0x08000000#32)
    (handed f).held = none ∧ (handed f).inputs = [.fetch f] ∧ decode f = .ok .flush := by decide

/-- A source write, and an act that is none. -/
theorem witness_OutsideAgentsCannotTouchTheQueue :
    (let s := { emptyQueue with inputs := [.srcWrite 0xFFFFFF#24 1#8] }
     s.held = none ∧ s.inputs = [.srcWrite 0xFFFFFF#24 1#8] ∧ Memory.wf s.srcMem = true) ∧
    (let s := { emptyQueue with inputs := [.consumePending] }
     s.held = none ∧ s.inputs = [.consumePending] ∧ Memory.wf s.srcMem = true) := by decide

theorem witness_EveryTriggerIsGuarded :
    (Instr.flush.isCommand = true ∧ ∃ t, exec .flush emptyQueue = .next t) ∧
    ∃ t, resumeHeld (.lowSegment .a ⟨0x01FFF0#25, 0#16, 8#16⟩ 2#16) emptyQueue = .next t := ⟨⟨rfl, _, rfl⟩, ⟨_, rfl⟩⟩

theorem witness_TheBusIsGivenBackAsFound :
    (∃ t, (∃ i, exec i emptyQueue = .next t) ∨ ∃ h, resumeHeld h emptyQueue = .next t) ∧
    ∃ t, resumeHeld (.lowSegment .a ⟨0x01FFF0#25, 0#16, 8#16⟩ 2#16) emptyQueue = .next t :=
  ⟨⟨_, .inl ⟨.flush, rfl⟩⟩, _, rfl⟩

end Sys2Proof.Machine.Tests
end

section
/-!
PROOFS. The outward words and their lanes (30_encoding.md R81 to R89): what each packer puts where, as bits and as a number, and
how far the unpackers take it back.
-/

namespace Sys2Proof.Machine

open Sys2Proof BitVec

/-! ### Lanes of a word -/

/-- A field of a value shifted left by `n` is the value's field `n` places down. -/
theorem extractLsb'_shiftLeft_setWidth {w v a n k : Nat} (x : BitVec w) (hn : n ≤ a) (hv : a + k ≤ v) :
    (x.setWidth v <<< n).extractLsb' a k = x.extractLsb' (a - n) k := by
  ext i hi
  simp only [getElem_extractLsb', getLsbD_shiftLeft, getLsbD_setWidth, Nat.sub_add_comm hn]
  simp [show a + i < v by omega, show ¬a + i < n by omega, show a - n + i < v by omega]

/-- A field of a value shifted right by `n` is the value's field `n` places up. -/
theorem extractLsb'_ushiftRight_setWidth {w v a n k : Nat} (x : BitVec w) (h : n + a + k ≤ v) :
    (x.setWidth v >>> n).extractLsb' a k = x.extractLsb' (n + a) k := by
  ext i hi
  simp [show n + (a + i) < v by omega, Nat.add_assoc]

/-- A field under a mask that holds all its bits. -/
theorem extractLsb'_and_of_ones {w a k : Nat} (x m : BitVec w) (h : m.extractLsb' a k = allOnes k) :
    (x &&& m).extractLsb' a k = x.extractLsb' a k := by rw [extractLsb'_and, h, and_allOnes]

/-- A field under a mask that holds none of its bits. -/
theorem extractLsb'_and_of_zero {w a k : Nat} (x m : BitVec w) (h : m.extractLsb' a k = 0#k) :
    (x &&& m).extractLsb' a k = 0#k := by rw [extractLsb'_and, h, and_zero]

/-- A word is its four bytes. -/
theorem word_of_bytes (w : Word) :
    w = w.extractLsb' 24 8 ++ w.extractLsb' 16 8 ++ w.extractLsb' 8 8 ++ w.extractLsb' 0 8 := by
  rw [extractLsb'_append_extractLsb'_eq_extractLsb' (by omega), extractLsb'_append_extractLsb'_eq_extractLsb' (by omega),
    extractLsb'_append_extractLsb'_eq_extractLsb' (by omega)]
  exact extractLsb'_eq_self.symm

/-- A word is its five fields in the layout of W3 (R83). -/
theorem word_of_w3_fields (w : Word) :
    w = w.extractLsb' 24 8 ++ w.extractLsb' 23 1 ++ w.extractLsb' 16 7 ++ w.extractLsb' 8 8 ++ w.extractLsb' 0 8 := by
  rw [extractLsb'_append_extractLsb'_eq_extractLsb' (by omega), extractLsb'_append_extractLsb'_eq_extractLsb' (by omega),
    extractLsb'_append_extractLsb'_eq_extractLsb' (by omega), extractLsb'_append_extractLsb'_eq_extractLsb' (by omega)]
  exact extractLsb'_eq_self.symm

/-- A concatenation as a number. -/
theorem toNat_append_eq {v w : Nat} (x : BitVec v) (y : BitVec w) : (x ++ y).toNat = x.toNat * 2 ^ w + y.toNat := by
  rw [toNat_append, ← Nat.shiftLeft_add_eq_or_of_lt y.isLt, Nat.shiftLeft_eq]

/-- A field as a number. -/
theorem toNat_field {w : Nat} (x : BitVec w) (a k : Nat) : (x.extractLsb' a k).toNat = x.toNat / 2 ^ a % 2 ^ k := by
  rw [extractLsb'_toNat, Nat.shiftRight_eq_div_pow]

/-- Two parts shifted into place are their concatenation. -/
theorem shiftLeft_or_eq_append {v w : Nat} (x : BitVec v) (y : BitVec w) :
    x.setWidth (v + w) <<< w ||| y.setWidth (v + w) = x ++ y :=
  setWidth_append_eq_shiftLeft_setWidth_or.symm.trans (setWidth_eq _)

/-! ### The packers -/

/-- W1 is 0x94 ∥ len[15:8] ∥ 0x93 ∥ len[7:0] (R81). -/
theorem packLen_lanes (len : Half) : packLen len = 0x94#8 ++ len.extractLsb' 8 8 ++ 0x93#8 ++ len.extractLsb' 0 8 := by
  have hupper : (len.setWidth 32 ||| len.setWidth 32 <<< 8).extractLsb' 16 8 = len.extractLsb' 8 8 := by
    rw [extractLsb'_or, extractLsb'_shiftLeft_setWidth len (by omega) (by omega), extractLsb'_setWidth_of_le (by omega)]
    ext i hi
    simp
  have hlower : (len.setWidth 32 ||| len.setWidth 32 <<< 8).extractLsb' 0 8 = len.extractLsb' 0 8 := by
    rw [extractLsb'_or, extractLsb'_setWidth_of_le (by omega)]
    ext i hi
    simp [hi]
  rw [word_of_bytes (packLen len)]
  simp only [packLen, extractLsb'_or (x := 0x94009300#32)]
  rw [extractLsb'_and_of_zero (a := 24) _ _ (by decide), extractLsb'_and_of_ones (a := 16) _ _ (by decide),
    extractLsb'_and_of_zero (a := 8) _ _ (by decide), extractLsb'_and_of_ones (a := 0) _ _ (by decide), hupper, hlower]
  simp

/-- W2 before the step is added (R82). -/
theorem packMid_base (src : SegAddr) :
    0x96008F00#32 ||| ((src.setWidth 32 <<< 7) &&& 0x00FF0000#32) = 0x96#8 ++ src.extractLsb' 9 8 ++ 0x8F#8 ++ 0#8 := by
  rw [word_of_bytes (_ ||| _)]
  simp only [extractLsb'_or]
  rw [extractLsb'_and_of_zero (a := 24) _ _ (by decide), extractLsb'_and_of_ones (a := 16) _ _ (by decide),
    extractLsb'_and_of_zero (a := 8) _ _ (by decide), extractLsb'_and_of_zero (a := 0) _ _ (by decide),
    extractLsb'_shiftLeft_setWidth src (by omega) (by omega)]
  simp

/-- W3 is 0x97 ∥ 0 ∥ src[23:17] ∥ 0x95 ∥ src[8:1] (R83). -/
theorem packHiLo_lanes (src : SegAddr) :
    packHiLo src = 0x97#8 ++ 0#1 ++ src.extractLsb' 17 7 ++ 0x95#8 ++ src.extractLsb' 1 8 := by
  rw [word_of_w3_fields (packHiLo src)]
  simp only [packHiLo, extractLsb'_or]
  rw [extractLsb'_and_of_zero (a := 24) _ _ (by decide), extractLsb'_and_of_zero (a := 23) _ _ (by decide),
    extractLsb'_and_of_ones (a := 16) _ _ (by decide), extractLsb'_and_of_zero (a := 8) _ _ (by decide),
    extractLsb'_and_of_ones (a := 0) _ _ (by decide), extractLsb'_ushiftRight_setWidth (a := 16) src (by omega),
    extractLsb'_ushiftRight_setWidth (a := 0) src (by omega)]
  simp

/-- W2 as a number: nothing is lost above, whatever the step (R82). -/
theorem packMid_toNat (src : SegAddr) (step : Half) :
    (packMid src step).toNat = 0x96008F00 + 2 ^ 16 * (src.extractLsb' 9 8).toNat + step.toNat := by
  rw [packMid, packMid_base, toNat_add]
  simp only [toNat_append_eq, toNat_setWidth, toNat_ofNat]
  have := (src.extractLsb' 9 8).isLt
  omega

/-- W2 for a one-byte step: the addition carries nowhere (R82). -/
theorem packMid_lanes (src : SegAddr) (step : Byte) :
    packMid src (step.setWidth 16) = 0x96#8 ++ src.extractLsb' 9 8 ++ 0x8F#8 ++ step := by
  apply eq_of_toNat_eq
  rw [packMid_toNat]
  simp only [toNat_append_eq, toNat_setWidth, toNat_ofNat]
  omega

theorem fillData_eq_append (val : Byte) : fillData val = val ++ val := shiftLeft_or_eq_append val val

/-- Settles O6, byte by byte; the sum in W2 as a number. -/
theorem packedWordsHaveTheirLanes : Obligations.PackedWordsHaveTheirLanes :=
  ⟨packLen_lanes, packMid_toNat, packMid_lanes, packHiLo_lanes, fillData_eq_append⟩

/-! ### The unpackers -/

theorem unpackLen_lanes (w1 : Word) : unpackLen w1 = w1.extractLsb' 16 8 ++ w1.extractLsb' 0 8 := by
  rw [unpackLen]
  exact shiftLeft_or_eq_append (w1.extractLsb' 16 8) (w1.extractLsb' 0 8)

theorem unpackSrc_lanes (w2 w3 : Word) :
    unpackSrc w2 w3 = w3.extractLsb' 16 7 ++ w2.extractLsb' 16 8 ++ w3.extractLsb' 0 8 ++ 0#1 := by
  have h := setWidth_append_append_append_eq_shiftLeft_setWidth_or (w'''' := 24) (b := w3.extractLsb' 16 7)
    (b' := w2.extractLsb' 16 8) (b'' := w3.extractLsb' 0 8) (b''' := 0#1)
  rw [show setWidth 24 0#1 = 0#24 from rfl, or_zero] at h
  exact h.symm.trans (setWidth_eq _)

theorem unpackStep_lanes (w2 : Word) : unpackStep w2 = 0#8 ++ w2.extractLsb' 0 8 := by
  apply eq_of_toNat_eq
  simp only [unpackStep, toNat_append_eq, toNat_setWidth, toNat_field, toNat_ofNat]
  omega

theorem unpackLen_packLen (len : Half) : unpackLen (packLen len) = len := by
  apply eq_of_toNat_eq
  rw [unpackLen_lanes, packLen_lanes]
  simp only [toNat_append_eq, toNat_field, toNat_ofNat]
  omega

theorem unpackStep_packMid (src : SegAddr) (step : Half) :
    unpackStep (packMid src step) = (step.extractLsb' 0 8).setWidth 16 := by
  apply eq_of_toNat_eq
  rw [unpackStep_lanes]
  simp only [toNat_append_eq, toNat_field, packMid_toNat, toNat_setWidth, toNat_ofNat]
  omega

/-- The unpacked source address as a number: the address cut to bits 23:1, the carry of the step added into bits 16:9
(R82, R89). -/
theorem unpackSrc_pack_toNat (src : SegAddr) (step : Half) :
    (unpackSrc (packMid src step) (packHiLo src)).toNat =
      src.toNat / 2 ^ 17 % 2 ^ 7 * 2 ^ 17 +
        (src.toNat / 2 ^ 9 + (0x8F00 + step.toNat) / 2 ^ 16) % 2 ^ 8 * 2 ^ 9 + src.toNat / 2 % 2 ^ 8 * 2 := by
  rw [unpackSrc_lanes, packHiLo_lanes]
  simp only [toNat_append_eq, toNat_field, packMid_toNat, toNat_ofNat]
  omega

theorem srcEven_iff (src : SrcAddr) : srcEven src = true ↔ src.toNat % 2 = 0 := by
  rw [srcEven, Bool.not_eq_true', getLsbD, Nat.testBit_zero]
  simp

/-- The unpacked address of an even source is the source exactly while the step's carry stays below bit 16 of W2 (R89). -/
theorem unpackSrc_pack_eq_iff {src : SrcAddr} (step : Half) (h : srcEven src = true) :
    unpackSrc (packMid (src.setWidth 25) step) (packHiLo (src.setWidth 25)) = src ↔ step.toNat < 0x7100 := by
  have heven : src.toNat % 2 = 0 := (srcEven_iff src).mp h
  have hlt := src.isLt
  rw [← toNat_inj, unpackSrc_pack_toNat, toNat_setWidth]
  omega

/-- The high segment of a request in the last bank begins at 0x1000000 and unpacks as 0 (R89, R124). -/
theorem unpackSrc_pack_last {step : Half} (h : step.toNat ≤ 0xFF) :
    unpackSrc (packMid 0x1000000#25 step) (packHiLo 0x1000000#25) = 0#24 := by
  apply eq_of_toNat_eq
  rw [unpackSrc_pack_toNat]
  simp only [toNat_ofNat]
  omega

/-- Settles O7: the lanes of the packed words, and for the source address the carry of the step as a number. -/
theorem unpackInvertsPack : Obligations.UnpackInvertsPack :=
  ⟨fun w1 w2 w3 => ⟨unpackLen_lanes w1, unpackSrc_lanes w2 w3, unpackStep_lanes w2⟩, unpackLen_packLen, unpackStep_packMid,
    fun _ step h => unpackSrc_pack_eq_iff step h, fun _ h => unpackSrc_pack_last h⟩

end Sys2Proof.Machine
end

section
/-!
PROOFS. The decoder of packets (30_encoding.md R91 to R99): what decodes is the encoding of a well-formed command, and a packet
with a defined opcode decodes exactly when it has no reserved field value.
-/

namespace Sys2Proof.Machine

open Sys2Proof BitVec

/-! ### A packet and its fields -/

/-- A packing is a packet exactly when what was packed are its fields and P2[7:2] is zero (R91). -/
theorem pack_eq_packet_iff {p : Packet} {op : Byte} {src : SrcAddr} {dst len step : Half} {val : Byte} {cls : BitVec 2}
    {aux : Word} :
    Packet.pack op src dst len step val cls aux = .packet p ↔
      p.zero6 = 0#6 ∧ p.op = op ∧ p.src = src ∧ p.dst = dst ∧ p.len = len ∧ p.step = step ∧ p.val = val ∧ p.cls = cls ∧
        p.aux = aux := by
  rw [pack_eq, Fetched.packet.injEq]
  constructor
  · rintro rfl
    simp
  · rintro ⟨hz, rfl, rfl, rfl, rfl, rfl, rfl, rfl, rfl⟩
    exact packed_fields p hz

/-- A field is zero where a mask that holds all its bits leaves nothing. -/
theorem extractLsb'_eq_zero_of_and {w a k : Nat} {x m : BitVec w} (h : x &&& m = 0#w)
    (hm : m.extractLsb' a k = allOnes k) : x.extractLsb' a k = 0#k := by
  rw [← extractLsb'_and_of_ones x m hm, h, extractLsb'_zero]

/-- A word with bits 31:2 zero is its two low bits, in SETCFG's layout (R94). -/
theorem aux_of_flags {aux : Word} (h : aux &&& 0xFFFFFFFC#32 = 0#32) :
    0#30 ++ ofBool (aux.getLsbD 1) ++ ofBool (aux.getLsbD 0) = aux := by
  have hbit (n : Nat) : ofBool (aux.getLsbD n) = aux.extractLsb' n 1 := by
    ext i hi
    simp [show i = 0 by omega]
  have hhigh : aux.extractLsb' 2 30 = 0#30 := extractLsb'_eq_zero_of_and h (by decide)
  rw [hbit, hbit, ← hhigh, extractLsb'_append_extractLsb'_eq_extractLsb' (by omega),
    extractLsb'_append_extractLsb'_eq_extractLsb' (by omega)]
  exact extractLsb'_eq_self

/-- A source field with bits 23:16 zero is its low half, COPY's offset (R95). -/
theorem src_of_offset {src : SrcAddr} (h : src &&& 0xFF0000#24 = 0#24) : 0#8 ++ src.extractLsb' 0 16 = src := by
  have hhigh : src.extractLsb' 16 8 = 0#8 := extractLsb'_eq_zero_of_and h (by decide)
  rw [← hhigh]
  exact extractLsb'_append_extractLsb'

theorem and_one_eq_zero_iff (src : SrcAddr) : src &&& 1#24 = 0#24 ↔ srcEven src = true := by
  refine ⟨fun h => (srcEven_iff src).mpr ?_, srcEven_and_one⟩
  simpa [Nat.and_one_is_mod] using congrArg BitVec.toNat h

/-! ### The checks before a command -/

theorem checked_eq_ok_iff {ok : Bool} {i j : Instr} : checked ok i = .ok j ↔ ok = true ∧ i = j := by
  cases ok <;> simp [checked]

/-- The zero-field check, field by field (R95). -/
theorem zeroFields_iff {p : Packet} {src : Option SrcAddr} {dst len step : Option Half} {val : Option Byte}
    {cls : Option (BitVec 2)} {aux : Option Word} :
    p.zeroFields src dst len step val cls aux = true ↔
      p.zero6 = 0#6 ∧ (∀ x, src = some x → x = 0#24) ∧ (∀ x, dst = some x → x = 0#16) ∧ (∀ x, len = some x → x = 0#16) ∧
        (∀ x, step = some x → x = 0#16) ∧ (∀ x, val = some x → x = 0#8) ∧ (∀ x, cls = some x → x = 0#2) ∧
        ∀ x, aux = some x → x = 0#32 := by
  simp only [Packet.zeroFields, Bool.and_eq_true, beq_iff_eq, Option.all_eq_true]
  tauto

/-- A mask of SRC[0] alone is the evenness check (R70, R98). -/
theorem zeroFields_src0_iff {p : Packet} {dst len step : Option Half} {val : Option Byte} {cls : Option (BitVec 2)}
    {aux : Option Word} :
    p.zeroFields (some (p.src &&& 1#24)) dst len step val cls aux = true ↔
      p.zeroFields none dst len step val cls aux = true ∧ srcEven p.src = true := by
  have hsome : (∀ x, some (p.src &&& 1#24) = some x → x = 0#24) ↔ srcEven p.src = true := by
    simp [and_one_eq_zero_iff]
  have hnone : ∀ x, (none : Option SrcAddr) = some x → x = 0#24 := by simp
  rw [zeroFields_iff, zeroFields_iff, hsome]
  exact ⟨fun ⟨hz, heven, hrest⟩ => ⟨⟨hz, hnone, hrest⟩, heven⟩, fun ⟨⟨hz, _, hrest⟩, heven⟩ => ⟨hz, heven, hrest⟩⟩

/-- The class a CLS field names has that field (R93). -/
theorem ofField_eq_some {c : BitVec 2} {k : DestClass} (h : DestClass.ofField c = some k) : c = k.toField := by
  have : ∀ c : BitVec 2, ∀ k ∈ DestClass.ofField c, c = k.toField := by decide
  exact this c k h

/-- CLS = 3 is the one class field that names no class (R93). -/
theorem exists_ofField_iff (c : BitVec 2) : (∃ k, DestClass.ofField c = some k) ↔ c ≠ 3#2 := by
  rw [← Option.isSome_iff_exists]
  revert c
  decide

/-- ENQ and XFER decode where the unused fields are zero, the source address is even and CLS names a class (R98). -/
theorem withClass_eq_ok_iff {p : Packet} {k : DestClass → Instr} {i : Instr} :
    withClass p k = .ok i ↔
      (p.zeroFields (src := none) (dst := none) (len := none) (step := none) (cls := none) = true ∧
        srcEven p.src = true) ∧ ∃ cls, DestClass.ofField p.cls = some cls ∧ k cls = i := by
  unfold withClass srcEven
  cases p.zeroFields (src := none) (dst := none) (len := none) (step := none) (cls := none) <;>
    cases p.src.getLsbD 0 <;> cases DestClass.ofField p.cls <;> simp

/-- SWCOPY decodes where the unused fields are zero and the source address is even (R98). -/
theorem decodePacket_swcopy_eq_ok_iff {p : Packet} {i : Instr} (hop : p.op.toNat = 12) :
    decodePacket p = .ok i ↔
      (p.zeroFields (src := none) (len := none) (step := none) (aux := none) = true ∧ srcEven p.src = true) ∧
        .swcopy p.aux p.src p.len p.step = i := by
  simp only [decodePacket, hop]
  unfold srcEven
  cases p.zeroFields (src := none) (len := none) (step := none) (aux := none) <;>
    cases p.src.getLsbD 0 <;> simp

/-! ### What decodes is an encoding -/

/-- The opcode from its number. -/
theorem op_eq_of_toNat {p : Packet} {n : Nat} (h : p.op.toNat = n) : p.op = BitVec.ofNat 8 n := by
  rw [← h, ofNat_toNat, setWidth_eq]

/-- A packet that decodes is the encoding of what it decodes to, a well-formed command (R99). -/
theorem encode_of_decodePacket {p : Packet} {i : Instr} (h : decodePacket p = .ok i) :
    i.isCommand = true ∧ i.wellFormed = true ∧ encode i = .packet p := by
  have hdec := h
  unfold decodePacket at h
  split at h
  case h_1 hop | h_4 hop | h_5 hop | h_6 hop | h_7 hop | h_8 hop | h_10 hop =>
    obtain ⟨hz, rfl⟩ := checked_eq_ok_iff.mp h
    exact ⟨rfl, rfl, pack_eq_packet_iff.mpr (by simpa [zeroFields_iff, op_eq_of_toNat hop] using hz)⟩
  case h_2 hop =>
    obtain ⟨hz, rfl⟩ := checked_eq_ok_iff.mp h
    obtain ⟨hz6, hsrc, hdst, hlen, hstep, hval, hcls, haux⟩ := zeroFields_iff.mp hz
    exact ⟨rfl, rfl, pack_eq_packet_iff.mpr ⟨hz6, op_eq_of_toNat hop, hsrc _ rfl, hdst _ rfl, hlen _ rfl, hstep _ rfl,
      hval _ rfl, hcls _ rfl, (aux_of_flags (haux _ rfl)).symm⟩⟩
  case h_3 hop | h_9 hop =>
    obtain ⟨⟨hz, heven⟩, cls, hcls, rfl⟩ := withClass_eq_ok_iff.mp h
    exact ⟨rfl, heven, pack_eq_packet_iff.mpr
      (by simpa [zeroFields_iff, op_eq_of_toNat hop, ofField_eq_some hcls] using hz)⟩
  case h_11 hop =>
    obtain ⟨hz, rfl⟩ := checked_eq_ok_iff.mp h
    obtain ⟨hz6, hsrc, -, -, -, hval, hcls, haux⟩ := zeroFields_iff.mp hz
    exact ⟨rfl, rfl, pack_eq_packet_iff.mpr ⟨hz6, op_eq_of_toNat hop, (src_of_offset (hsrc _ rfl)).symm, rfl, rfl, rfl,
      hval _ rfl, hcls _ rfl, haux _ rfl⟩⟩
  case h_12 hop =>
    obtain ⟨⟨hz, heven⟩, rfl⟩ := (decodePacket_swcopy_eq_ok_iff hop).mp hdec
    exact ⟨rfl, heven, pack_eq_packet_iff.mpr (by simpa [zeroFields_iff, op_eq_of_toNat hop] using hz)⟩
  case h_13 hop => cases h

/-! ### The table's masks -/

/-- A packet with only the bits of a mask kept. -/
def maskedPacket (p m : Packet) : Packet := ⟨p.p0 &&& m.p0, p.p1 &&& m.p1, p.p2 &&& m.p2, p.p3 &&& m.p3⟩

section MaskedFields

variable (p m : Packet)

theorem maskedPacket_bits : (maskedPacket p m).bits = p.bits &&& m.bits := (bits_and p m).symm

@[simp] theorem maskedPacket_op : (maskedPacket p m).op = p.op &&& m.op := extractLsb'_and
@[simp] theorem maskedPacket_src : (maskedPacket p m).src = p.src &&& m.src := extractLsb'_and
@[simp] theorem maskedPacket_dst : (maskedPacket p m).dst = p.dst &&& m.dst := extractLsb'_and
@[simp] theorem maskedPacket_len : (maskedPacket p m).len = p.len &&& m.len := extractLsb'_and
@[simp] theorem maskedPacket_step : (maskedPacket p m).step = p.step &&& m.step := extractLsb'_and
@[simp] theorem maskedPacket_val : (maskedPacket p m).val = p.val &&& m.val := extractLsb'_and
@[simp] theorem maskedPacket_zero6 : (maskedPacket p m).zero6 = p.zero6 &&& m.zero6 := extractLsb'_and
@[simp] theorem maskedPacket_cls : (maskedPacket p m).cls = p.cls &&& m.cls := extractLsb'_and
@[simp] theorem maskedPacket_aux : (maskedPacket p m).aux = p.aux &&& m.aux := rfl

end MaskedFields

/-- The number of a packet with nothing but an opcode. -/
theorem bits_of_bare_opcode (op : Byte) :
    (packed op 0#24 0#16 0#16 0#16 0#8 0#2 0#32).bits.toNat = op.toNat <<< 120 := by
  simp only [packed, Packet.bits, toNat_append_eq, Nat.shiftLeft_eq, toNat_ofNat]
  omega

/-- A packet's number under a row's mask is the row's match exactly where every field is zero under the mask (R95, R96). -/
theorem number_masked_iff {p : Packet} (m : Packet) {mask n : Nat} (hmask : m.bits.toNat = mask) (hn : p.op.toNat = n)
    (hop : m.op = allOnes 8) (hz : m.zero6 = allOnes 6) :
    (p.bits.toNat &&& mask != n <<< 120) = false ↔
      p.zeroFields (src := some (p.src &&& m.src)) (dst := some (p.dst &&& m.dst)) (len := some (p.len &&& m.len))
        (step := some (p.step &&& m.step)) (val := some (p.val &&& m.val)) (cls := some (p.cls &&& m.cls))
        (aux := some (p.aux &&& m.aux)) = true := by
  have hinj : Function.Injective Packet.bits := Function.LeftInverse.injective ofBits_bits
  rw [bne_eq_false_iff_eq, ← hmask, ← hn, ← bits_of_bare_opcode, ← toNat_and, ← maskedPacket_bits, toNat_inj, hinj.eq_iff,
    eq_comm, ← Fetched.packet.injEq, ← pack_eq, pack_eq_packet_iff, zeroFields_iff, maskedPacket_op, maskedPacket_zero6,
    hop, hz, and_allOnes, and_allOnes]
  simp

/-- A mask of ones keeps everything. -/
theorem and_ones {w : Nat} {m : BitVec w} (x : BitVec w) (h : m = allOnes w) : x &&& m = x := by rw [h, and_allOnes]

/-- The fields of a packet given by its four words (R91). -/
theorem fields_of_words (a b c d : Word) :
    (Packet.mk a b c d).src = a.extractLsb' 0 24 ∧ (Packet.mk a b c d).dst = b.extractLsb' 16 16 ∧
      (Packet.mk a b c d).len = b.extractLsb' 0 16 ∧ (Packet.mk a b c d).step = c.extractLsb' 16 16 ∧
      (Packet.mk a b c d).val = c.extractLsb' 8 8 ∧ (Packet.mk a b c d).cls = c.extractLsb' 0 2 ∧
      (Packet.mk a b c d).aux = d := ⟨rfl, rfl, rfl, rfl, rfl, rfl, rfl⟩

/-! ### A defined opcode decodes unless a field value is reserved, row by row of the table (R95, R98) -/

section Rows

variable {p : Packet}

theorem exists_checked_iff {ok : Bool} {i : Instr} : (∃ j, checked ok i = .ok j) ↔ ok = true := by
  simp [checked_eq_ok_iff]

theorem decodes_init_iff (hop : p.op.toNat = 1) : (∃ i, decodePacket p = .ok i) ↔ reservedFieldValue p = false := by
  simp only [decodePacket, reservedFieldValue, hop, exists_checked_iff]
  refine .trans ?_ (number_masked_iff ⟨0xFFFFFFFF#32, 0xFFFF0000#32, 0xFFFFFFFF#32, 0#32⟩ rfl hop rfl rfl).symm
  simp [zeroFields_iff, fields_of_words, and_ones]

theorem decodes_setcfg_iff (hop : p.op.toNat = 2) : (∃ i, decodePacket p = .ok i) ↔ reservedFieldValue p = false := by
  simp only [decodePacket, reservedFieldValue, hop, exists_checked_iff]
  refine .trans ?_ (number_masked_iff ⟨0xFFFFFFFF#32, 0xFFFFFFFF#32, 0xFFFFFFFF#32, 0xFFFFFFFC#32⟩ rfl hop rfl rfl).symm
  simp [zeroFields_iff, fields_of_words, and_ones]

/-- ENQ and XFER: their mask leaves CLS out, and CLS = 3 is reserved besides. -/
theorem exists_withClass_iff {n : Nat} (hop : p.op.toNat = n) (k : DestClass → Instr) :
    (∃ i, withClass p k = .ok i) ↔
      (p.bits.toNat &&& 0xFF000001000000000000FFFCFFFFFFFF != n <<< 120 || p.cls == 3#2) = false := by
  have hcls : (p.cls == 3#2) = false ↔ ∃ cls, DestClass.ofField p.cls = some cls := by simp [exists_ofField_iff]
  have hmask := (number_masked_iff (mask := 0xFF000001000000000000FFFCFFFFFFFF)
    ⟨0xFF000001#32, 0#32, 0x0000FFFC#32, 0xFFFFFFFF#32⟩ rfl hop rfl rfl).trans zeroFields_src0_iff
  rw [Bool.or_eq_false_iff, hmask, hcls]
  simp [withClass_eq_ok_iff, zeroFields_iff, fields_of_words, and_ones]

theorem decodes_enq_iff (hop : p.op.toNat = 3) : (∃ i, decodePacket p = .ok i) ↔ reservedFieldValue p = false := by
  simp only [decodePacket, reservedFieldValue, hop]
  exact exists_withClass_iff hop _

theorem decodes_xfer_iff (hop : p.op.toNat = 9) : (∃ i, decodePacket p = .ok i) ↔ reservedFieldValue p = false := by
  simp only [decodePacket, reservedFieldValue, hop]
  exact exists_withClass_iff hop _

/-- CLRQ, QSIZE, QBYTES, QOVF and FLUSH have no operands: all their bits are in the mask. -/
theorem decodes_bare_iff (hlo : 4 ≤ p.op.toNat) (hhi : p.op.toNat ≤ 8) :
    (∃ i, decodePacket p = .ok i) ↔ reservedFieldValue p = false := by
  have hmask {n : Nat} (hop : p.op.toNat = n) :=
    number_masked_iff ⟨0xFFFFFFFF#32, 0xFFFFFFFF#32, 0xFFFFFFFF#32, 0xFFFFFFFF#32⟩ rfl hop rfl rfl
  obtain hop | hop | hop | hop | hop : p.op.toNat = 4 ∨ p.op.toNat = 5 ∨ p.op.toNat = 6 ∨ p.op.toNat = 7 ∨
      p.op.toNat = 8 := by omega
  all_goals
    simp only [decodePacket, reservedFieldValue, hop, exists_checked_iff]
    refine .trans ?_ (hmask hop).symm
    simp [zeroFields_iff, fields_of_words, and_ones]

theorem decodes_fill_iff (hop : p.op.toNat = 10) : (∃ i, decodePacket p = .ok i) ↔ reservedFieldValue p = false := by
  simp only [decodePacket, reservedFieldValue, hop, exists_checked_iff]
  refine .trans ?_ (number_masked_iff ⟨0xFFFFFFFF#32, 0#32, 0x000000FF#32, 0xFFFFFFFF#32⟩ rfl hop rfl rfl).symm
  simp [zeroFields_iff, fields_of_words, and_ones]

theorem decodes_copy_iff (hop : p.op.toNat = 11) : (∃ i, decodePacket p = .ok i) ↔ reservedFieldValue p = false := by
  simp only [decodePacket, reservedFieldValue, hop, exists_checked_iff]
  refine .trans ?_ (number_masked_iff ⟨0xFFFF0000#32, 0#32, 0x0000FFFF#32, 0xFFFFFFFF#32⟩ rfl hop rfl rfl).symm
  simp [zeroFields_iff, fields_of_words, and_ones]

theorem decodes_swcopy_iff (hop : p.op.toNat = 12) : (∃ i, decodePacket p = .ok i) ↔ reservedFieldValue p = false := by
  simp only [decodePacket_swcopy_eq_ok_iff hop, reservedFieldValue, hop]
  refine .trans ?_ ((number_masked_iff ⟨0xFF000001#32, 0xFFFF0000#32, 0x0000FFFF#32, 0#32⟩ rfl hop rfl rfl).trans
    zeroFields_src0_iff).symm
  simp [zeroFields_iff, fields_of_words, and_ones]

/-- A packet with a defined opcode decodes exactly when it has no reserved field value (R98, R99). -/
theorem decodes_iff (hlo : 0 < p.op.toNat) (hhi : p.op.toNat < 13) :
    (∃ i, decodePacket p = .ok i) ↔ reservedFieldValue p = false := by
  obtain hop | hop | hop | ⟨hop, hop'⟩ | hop | hop | hop | hop : p.op.toNat = 1 ∨ p.op.toNat = 2 ∨ p.op.toNat = 3 ∨
      (4 ≤ p.op.toNat ∧ p.op.toNat ≤ 8) ∨ p.op.toNat = 9 ∨ p.op.toNat = 10 ∨ p.op.toNat = 11 ∨ p.op.toNat = 12 := by omega
  · exact decodes_init_iff hop
  · exact decodes_setcfg_iff hop
  · exact decodes_enq_iff hop
  · exact decodes_bare_iff hop hop'
  · exact decodes_xfer_iff hop
  · exact decodes_fill_iff hop
  · exact decodes_copy_iff hop
  · exact decodes_swcopy_iff hop

end Rows

/-- Settles O2: what decodes is an encoding, so the command determines the packet; and what is not reserved decodes. -/
theorem packetsDecodeTotallyAndInjectively : Obligations.PacketsDecodeTotallyAndInjectively := by
  refine ⟨fun p i h => encode_of_decodePacket h, fun p q i hp hq => ?_, fun p hlo hhi h => (decodes_iff hlo hhi).mpr h⟩
  obtain ⟨-, -, hep⟩ := encode_of_decodePacket hp
  obtain ⟨-, -, heq⟩ := encode_of_decodePacket hq
  exact Fetched.packet.inj (hep.symm.trans heq)

/-! ### A packet that does not decode is a BadCommand -/

/-- The one decoding error that is not a BadCommand is a lone port word's (log 12). -/
theorem decodePacket_ne_unlistedPortWord (p : Packet) (w : Half) : decodePacket p ≠ .error (.unlistedPortWord w) := by
  have hchecked (ok : Bool) (i : Instr) : checked ok i ≠ .error (.unlistedPortWord w) := by
    cases ok <;> simp [checked]
  have hclass (k : DestClass → Instr) : withClass p k ≠ .error (.unlistedPortWord w) := by
    unfold withClass
    split
    · simp
    · split
      · simp
      · split <;> simp
  unfold decodePacket
  split
  case h_3 | h_9 => exact hclass _
  case h_12 =>
    split
    · simp
    · split <;> simp
  case h_13 => simp
  all_goals exact hchecked _ _

/-- With no command held, a step takes the next packet and runs it. -/
theorem step_of_packet {s : State} {p : Packet} {rest : List Input} (hheld : s.held = none)
    (hin : s.inputs = .fetch (.packet p) :: rest) : step s = runFetched (.packet p) { s with inputs := rest } := by
  simp only [step, idleTurn, hheld, hin, act]

theorem runFetched_of_decodePacket {p : Packet} {i : Instr} (s : State) (h : decodePacket p = .ok i) :
    runFetched (.packet p) s = exec i s := by
  simp only [runFetched, decode, h]

theorem runFetched_of_error {p : Packet} {e : DecodeError} (s : State) (h : decodePacket p = .error e) :
    runFetched (.packet p) s = .next (raise Config.params .badCommand s) := by
  cases e with
  | unlistedPortWord w => exact absurd h (decodePacket_ne_unlistedPortWord p w)
  | reservedOpcode | fieldNotZero | reservedClass | oddSource => simp only [runFetched, decode, h]

/-- The step of a packet that does not decode is the BadCommand of R97, whatever the reason. -/
theorem step_of_not_decoded {s : State} {p : Packet} {rest : List Input} (hheld : s.held = none)
    (hin : s.inputs = .fetch (.packet p) :: rest) (h : ¬∃ i, decodePacket p = .ok i) :
    step s = .next { s with
      inputs := rest
      resp := 0#32
      trace := s.trace ++ (diagEvents Config.params .alertBadCommand ++ [.resp 0#32]) } := by
  cases hd : decodePacket p with
  | ok i => exact absurd ⟨i, hd⟩ h
  | error e =>
    rw [step_of_packet hheld hin, runFetched_of_error _ hd, raise_eq]
    rfl

theorem decodePacket_of_reservedOpcode {p : Packet} (h : p.op.toNat = 0 ∨ 13 ≤ p.op.toNat) :
    decodePacket p = .error (.reservedOpcode p.op) := by
  unfold decodePacket
  split
  case h_13 => rfl
  all_goals omega

/-- Settles O3: a reserved opcode does not decode. -/
theorem reservedOpcodesAreBadCommands : Obligations.ReservedOpcodesAreBadCommands :=
  fun _ _ _ hheld hin hop =>
    step_of_not_decoded hheld hin (by simp [decodePacket_of_reservedOpcode hop])

/-- Settles O4: by whether the packet decodes. -/
theorem reservedFieldValuesAreBadCommands : Obligations.ReservedFieldValuesAreBadCommands := by
  intro s p rest hheld hin hlo hhi
  have hiff := decodes_iff hlo hhi
  split
  case isTrue hres =>
    exact step_of_not_decoded hheld hin (by simp [hiff, hres])
  case isFalse hres =>
    obtain ⟨i, hi⟩ := hiff.mpr (Bool.eq_false_iff.mpr hres)
    obtain ⟨hcmd, hwf, henc⟩ := encode_of_decodePacket hi
    exact ⟨i, hcmd, hwf, henc, (step_of_packet hheld hin).trans (runFetched_of_decodePacket _ hi)⟩

end Sys2Proof.Machine
end

section
/-!
PROOFS. The shared units (40_datapath_units.md): where the decomposer cuts (R120, R121) and what the fill adjustment answers
(R133).
-/

namespace Sys2Proof.Machine

open Sys2Proof BitVec

/-! ### The decomposer -/

section Decompose

variable {src : SrcAddr} {dst len : Half}

theorem bytesToBoundary_eq (src : SrcAddr) : bytesToBoundary src = 0x20000 - src.toNat % 0x20000 := by
  simp [bytesToBoundary, bankBytes, bankOffset]

/-- From an even address it is a whole number of words up to the boundary (R70). -/
theorem two_mul_wordsToBoundary (h : srcEven src = true) : 2 * wordsToBoundary src = bytesToBoundary src := by
  have heven : src.toNat % 2 = 0 := (srcEven_iff src).mp h
  rw [wordsToBoundary, bytesToBoundary_eq]
  omega

theorem decompose_of_fits (h : len.toNat ≤ wordsToBoundary src) :
    decompose src dst len = .whole { src := src.setWidth 25, dst := dst, len := len } :=
  if_neg (Nat.not_lt.mpr h)

/-- The low segment of a request that crosses a boundary (R121). -/
def lowPart (src : SrcAddr) (dst : Half) : Segment :=
  { src := src.setWidth 25, dst := dst, len := BitVec.ofNat 16 (wordsToBoundary src) }

/-- The high segment of a request that crosses a boundary (R121). -/
def highPart (src : SrcAddr) (dst len : Half) : Segment :=
  { src := src.setWidth 25 + BitVec.ofNat 25 (bytesToBoundary src)
    dst := dst + (lowPart src dst).len
    len := len - (lowPart src dst).len }

theorem decompose_of_crosses (h : wordsToBoundary src < len.toNat) :
    decompose src dst len = .split (lowPart src dst) (highPart src dst len) := by
  have hadv (n : Nat) : BitVec.ofNat 16 (Config.dstAdv * (BitVec.ofNat 16 n).toNat) = BitVec.ofNat 16 n := by
    rw [Config.dstAdv, Nat.one_mul, ofNat_toNat, setWidth_eq]
  simp only [decompose, h, if_true, hadv]
  rfl

theorem lowPart_len_toNat (h : wordsToBoundary src < len.toNat) : (lowPart src dst).len.toNat = wordsToBoundary src := by
  have hlen := len.isLt
  rw [lowPart, toNat_ofNat]
  omega

theorem highPart_len_toNat (h : wordsToBoundary src < len.toNat) :
    (highPart src dst len).len.toNat = len.toNat - wordsToBoundary src := by
  have hlow := lowPart_len_toNat (dst := dst) h
  have hle : (lowPart src dst).len ≤ len := by
    rw [le_def, hlow]
    omega
  rw [highPart, toNat_sub_of_le hle, hlow]

/-- The high segment's address does not wrap: it has 25 bits for the boundary above the last bank (R124). -/
theorem highPart_src_toNat : (highPart src dst len).src.toNat = src.toNat + bytesToBoundary src := by
  have hsrc := src.isLt
  rw [highPart, toNat_add, toNat_setWidth, toNat_ofNat, bytesToBoundary_eq]
  omega

end Decompose

/-- Settles O10, by whether the request has more words than there are up to the boundary. -/
theorem decomposeCutsAtTheBankBoundary : Obligations.DecomposeCutsAtTheBankBoundary := by
  intro src dst len heven
  have hwords := two_mul_wordsToBoundary heven
  have hbytes := bytesToBoundary_eq src
  constructor
  · intro hfits
    exact decompose_of_fits (by omega)
  · intro hcross
    have h : wordsToBoundary src < len.toNat := by omega
    have hlow := lowPart_len_toNat (dst := dst) h
    have hhigh := highPart_len_toNat (dst := dst) h
    have hsrc := highPart_src_toNat (src := src) (dst := dst) (len := len)
    have hlen := len.isLt
    exact ⟨lowPart src dst, highPart src dst len, decompose_of_crosses h, rfl, rfl, by omega, by omega, by omega, by omega,
      rfl, by omega⟩

/-! ### The fill adjustment -/

theorem getLsbD_zero_iff (x : Half) : x.getLsbD 0 = true ↔ x.toNat % 2 = 1 := by
  rw [getLsbD, Nat.testBit_zero, decide_eq_true_iff]

/-- R133's formula as naturals: no subtraction of it wraps. -/
theorem fillAdjust_toNat (dst len : Half) :
    (fillAdjust dst len).toNat =
      if len.toNat = 0 then 0
      else if dst.toNat % 2 = 1 then (if len.toNat < 3 then 1 else len.toNat - 2)
      else (if len.toNat < 2 then 1 else len.toNat - 1) := by
  have hzero : len = 0#16 ↔ len.toNat = 0 := toNat_eq
  have htwo : len < 2#16 ↔ len.toNat < 2 := lt_def
  have hthree : len < 3#16 ↔ len.toNat < 3 := lt_def
  simp only [fillAdjust, hzero, getLsbD_zero_iff, hthree, htwo]
  split_ifs with _ _ h3 h2
  · rfl
  · rfl
  · exact toNat_sub_of_le (y := 2#16) (show 2 ≤ len.toNat by omega)
  · rfl
  · exact toNat_sub_of_le (y := 1#16) (show 1 ≤ len.toNat by omega)

/-- Settles O11: the bounds follow from the formula in each of its cases. -/
theorem fillAdjustMatchesTheRule : Obligations.FillAdjustMatchesTheRule := by
  intro dst len
  rw [fillAdjust_toNat]
  refine ⟨rfl, ?_⟩
  split_ifs <;> omega

end Sys2Proof.Machine
end

section
/-!
PROOFS. The guarded-trigger rule (40_datapath_units.md R131) for every command: each operation that takes the rest of the command
as an argument keeps the rule where the rest does.
-/

namespace Sys2Proof.Machine

open Sys2Proof

/-! ### Event lists that obey the rule -/

/-- R131 for a command whose data the copier moves (`true`) or the engine moves (`false`). The engine's events are read from
between two transfers, whatever stood just before them. -/
def ObeysGuardRule : (copier : Bool) → List Event → Prop
  | true, evs => evs.all (fun e => !touchesCoprocessor e) = true
  | false, evs => ∀ afterHalt : Bool, (evs.foldl guardStep (some (0, afterHalt))).isSome = true

/-- The events may stand before any that obey the rule: for the engine, they end between two transfers. -/
def SafeBefore (copier : Bool) (evs : List Event) : Prop :=
  ∀ rest, ObeysGuardRule copier rest → ObeysGuardRule copier (evs ++ rest)

/-- The events that are neither CTRL words nor talk to the secondary coprocessor. -/
def isNeutral : Event → Bool
  | .cw32 _ | .cw16 _ | .taken _ | .halt | .resume => false
  | _ => true

section Lists

variable {copier : Bool} {evs evs' : List Event}

theorem obeysGuardRule_copier_iff :
    ObeysGuardRule true evs ↔ evs.all (fun e => !touchesCoprocessor e) = true := Iff.rfl

theorem obeysGuardRule_nil : ObeysGuardRule copier [] := by
  cases copier
  · exact fun _ => rfl
  · rfl

theorem SafeBefore.obeys (h : SafeBefore copier evs) : ObeysGuardRule copier evs :=
  evs.append_nil ▸ h [] obeysGuardRule_nil

theorem SafeBefore.append (h : SafeBefore copier evs) (h' : SafeBefore copier evs') : SafeBefore copier (evs ++ evs') :=
  fun rest hrest => evs.append_assoc evs' rest ▸ h _ (h' rest hrest)

/-- Where the copier moves the data, it is enough that no event touches the coprocessor. -/
theorem safeBefore_copier (h : evs.all (fun e => !touchesCoprocessor e) = true) : SafeBefore true evs := by
  intro rest hrest
  rw [obeysGuardRule_copier_iff] at hrest ⊢
  rw [List.all_append, h, hrest, Bool.and_self]

/-- A neutral event leaves the count of CTRL words alone. -/
theorem guardStep_of_neutral {e : Event} (h : isNeutral e = true) (n : Nat) (afterHalt : Bool) :
    guardStep (some (n, afterHalt)) e = some (n, false) := by
  cases e with
  | cw32 | cw16 | taken | halt | resume => cases h
  | _ => rfl

theorem not_touches_of_neutral {e : Event} (h : isNeutral e = true) : touchesCoprocessor e = false := by
  cases e with
  | cw32 | cw16 | taken | halt | resume => cases h
  | _ => rfl

theorem safeBefore_of_neutral (h : evs.all isNeutral = true) : SafeBefore copier evs := by
  cases copier with
  | true =>
    refine safeBefore_copier (List.all_eq_true.mpr fun e he => ?_)
    rw [not_touches_of_neutral (List.all_eq_true.mp h e he), Bool.not_false]
  | false =>
    intro rest hrest
    induction evs with
    | nil => exact hrest
    | cons e evs ih =>
      obtain ⟨he, htail⟩ := Bool.and_eq_true_iff.mp (List.all_cons ▸ h)
      intro afterHalt
      rw [List.cons_append, List.foldl_cons, guardStep_of_neutral he]
      exact ih htail false

/-- A descriptor with its own trigger sequence has its fourth CTRL word just after its `HALT` (R128). -/
theorem safeBefore_perTriggerEvents (wasTaken : Bool) (d : Descriptor) :
    SafeBefore false (perTriggerEvents wasTaken d) := by
  intro rest hrest afterHalt
  cases wasTaken <;> exact hrest false

/-- The copier reads, writes, sets the step, and writes its one command word (R230). -/
theorem safeBefore_copierEvents (p : Params) (m : Memory) (trig : Word) (src : SrcAddr) (len step : Half) :
    SafeBefore true (copierEvents p m trig src len step) :=
  safeBefore_copier (by simp [copierEvents, copierPairs, touchesCoprocessor])

theorem neutral_stepEvents (current step : Half) : (stepEvents current step).all isNeutral = true := by
  unfold stepEvents
  split <;> rfl

theorem neutral_diagEvents (p : Params) (d : Diag) : (diagEvents p d).all isNeutral = true := by
  unfold diagEvents
  split <;> rfl

theorem neutral_storeEvents (p : Params) (s : State) (seg : Segment) : (storeEvents p s seg).all isNeutral = true := by
  unfold storeEvents
  rw [List.all_append, Bool.and_eq_true]
  constructor
  · split <;> rfl
  · split
    · exact neutral_diagEvents p _
    · rfl

theorem safeBefore_segmentEvents (p : Params) (m : Memory) (wasTaken : Bool) (current : Half) (cls : DestClass)
    (seg : Segment) (step : Half) :
    SafeBefore (p.hwXfer == .disabled) (segmentEvents p m wasTaken current cls seg step) := by
  cases hx : p.hwXfer <;> simp only [segmentEvents, hx]
  · exact (safeBefore_of_neutral (neutral_stepEvents current step)).append (safeBefore_perTriggerEvents wasTaken _)
  · refine (safeBefore_of_neutral ?_).append (safeBefore_copierEvents p m _ _ _ _)
    split <;> rfl

end Lists

/-! ### States reached under the rule -/

/-- The trace of `t` goes on from that of `s` with events that obey the rule. -/
def ObeysFrom (copier : Bool) (s t : State) : Prop := ∃ evs : List Event, t.trace = s.trace ++ evs ∧ ObeysGuardRule copier evs

/-- What is still to come of a command obeys the rule, from every state. -/
def KeepsGuardRule (copier : Bool) (after : State → State) : Prop := ∀ s, ObeysFrom copier s (after s)

section Operations

variable {copier : Bool} {after : State → State} {s t : State} {evs : List Event} {v : Env}

theorem obeysFrom_of_neutral (ht : t.trace = s.trace ++ evs) (h : evs.all isNeutral = true) : ObeysFrom copier s t :=
  ⟨evs, ht, (safeBefore_of_neutral h).obeys⟩

theorem obeysFrom_of_talked (hevs : SafeBefore copier evs) (h : ObeysFrom copier (s.talked evs v) t) :
    ObeysFrom copier s t := by
  obtain ⟨rest, htrace, hrest⟩ := h
  exact ⟨evs ++ rest, by rw [htrace, talked_trace, List.append_assoc], hevs rest hrest⟩

/-- A command hung in a Halt obeys the rule where its events up to the `HALT` do (U13). -/
theorem obeysFrom_hungInHalt (h : ObeysGuardRule copier (evs ++ [.halt])) :
    ObeysFrom copier s (s.talked evs v).hungInHalt :=
  ⟨evs ++ [.halt], by simp [State.hungInHalt], h⟩

theorem keepsGuardRule_respond (w : Word) : KeepsGuardRule copier (respond w) :=
  fun s => obeysFrom_of_neutral (respond_trace s w) rfl

theorem obeysFrom_raise (p : Params) (c : Condition) (s : State) : ObeysFrom copier s (raise p c s) := by
  rw [raise_eq]
  refine obeysFrom_of_neutral rfl ?_
  rw [List.all_append, neutral_diagEvents]
  rfl

theorem keepsGuardRule_waitIdle (h : Held) (hafter : KeepsGuardRule copier after) :
    KeepsGuardRule copier (waitIdle h after) := by
  intro s
  by_cases hi : s.env.engine = .idle
  · rw [waitIdle_of_idle h after hi]
    exact obeysFrom_of_talked (safeBefore_of_neutral rfl) (hafter _)
  · rw [waitIdle_of_busy h after hi]
    exact obeysFrom_of_neutral (List.append_nil _).symm rfl

/-- The events of a descriptor whose Halt never returns hold no trigger word. -/
theorem obeysFrom_hungTransfer (p : Params) (s : State) (d : Descriptor) : ObeysFrom false s (hungTransfer p s d) :=
  obeysFrom_hungInHalt fun _ => rfl

end Operations

/-! ### FLUSH (R180) -/

section Flush

variable {p : Params} {after : State → State}

/-- The events of one replayed descriptor in PER_BATCH scope, whose Halt returns (R129, R182). -/
theorem safeBefore_perBatch (d : Descriptor) (isOpen wasTaken : Bool) :
    SafeBefore false
      ([.cw32 d.w1, .cw32 d.w2, .cw32 d.w3] ++ (if isOpen then [] else [.taken wasTaken]) ++ [.halt, .cw32 d.w4]) := by
  intro rest hrest afterHalt
  cases isOpen <;> exact hrest false

/-- One replayed descriptor in PER_TRIGGER scope (R128, R182). -/
theorem keepsGuardRule_replayHardware_perTrigger (hp : p.haltScope = .perTrigger) (d : Descriptor) (b : Batch)
    (hafter : KeepsGuardRule false after) : KeepsGuardRule false (replayHardware p d b after) := by
  intro s
  by_cases h : HaltsReturn s.env 1
  · rw [replayHardware_perTrigger_eq p s after d b hp h]
    exact obeysFrom_of_talked (safeBefore_perTriggerEvents _ d) (hafter _)
  · rw [replayHardware_of_never p s after d b (by simp [hp]) h]
    exact obeysFrom_hungTransfer p s d

/-- One replayed descriptor in PER_BATCH scope, the batch open or not (R129, R182). -/
theorem keepsGuardRule_replayHardware_perBatch (hp : p.haltScope = .perBatch) (d : Descriptor) (b : Batch)
    (hafter : KeepsGuardRule false after) : KeepsGuardRule false (replayHardware p d b after) := by
  intro s
  by_cases h : HaltsReturn s.env 1
  · rw [replayHardware_perBatch_eq p s after d b hp h]
    exact obeysFrom_of_talked (safeBefore_perBatch d b.isOpen _) (hafter _)
  · simp only [replayHardware, hp, triggerSeqBatch, writeDescriptorHead_eq]
    split
    · rw [haltCoprocessor_of_never]
      · exact obeysFrom_hungInHalt fun _ => rfl
      · exact h
    · rw [askBusTaken_eq, talked_talked, haltCoprocessor_of_never]
      · exact obeysFrom_hungInHalt fun _ => rfl
      · exact h

theorem keepsGuardRule_replayHardware (d : Descriptor) (b : Batch) (hafter : KeepsGuardRule false after) :
    KeepsGuardRule false (replayHardware p d b after) := by
  cases hp : p.haltScope with
  | perTrigger => exact keepsGuardRule_replayHardware_perTrigger hp d b hafter
  | perBatch => exact keepsGuardRule_replayHardware_perBatch hp d b hafter

/-- The end of the replay resumes, or does nothing (R130). -/
theorem keepsGuardRule_endReplay (b : Batch) (hafter : KeepsGuardRule false after) :
    KeepsGuardRule false (fun s => after (endReplay p b s)) := by
  intro s
  have hresume : SafeBefore false [.resume] := fun _ hrest _ => hrest false
  unfold endReplay
  beta_reduce
  split
  · exact hafter s
  · rw [batchEnd_eq]
    split
    · exact obeysFrom_of_talked hresume (hafter _)
    · exact hafter s

theorem keepsGuardRule_replayAllHardware (n i : Nat) (b : Batch) (hafter : KeepsGuardRule false after) :
    KeepsGuardRule false (replayAllHardware p n i b after) := by
  induction n generalizing i b with
  | zero => exact keepsGuardRule_endReplay b hafter
  | succ n ih => exact fun s => keepsGuardRule_replayHardware (s.slot i) b (ih _ _) s

theorem keepsGuardRule_replayAllFallback (n i : Nat) (hafter : KeepsGuardRule true after) :
    KeepsGuardRule true (fun s => after (replayAllFallback p n i s)) := by
  induction n generalizing i with
  | zero => exact hafter
  | succ n ih =>
    intro s
    simp only [replayAllFallback, replayFallback_eq]
    exact obeysFrom_of_talked (safeBefore_copierEvents p _ _ _ _ _) (ih (i + 1) _)

theorem keepsGuardRule_endFlush {copier : Bool} (saved : Half) : KeepsGuardRule copier (endFlush saved) := by
  intro s
  refine obeysFrom_of_neutral (evs := [.setStep saved, .resp 1#32]) ?_ rfl
  simp [endFlush, setAutoStep_eq]

theorem keepsGuardRule_flushFromIdle : KeepsGuardRule (p.hwXfer == .disabled) (flushFromIdle p) := by
  intro s
  rw [flushFromIdle, askStep_eq]
  refine obeysFrom_of_talked (v := s.env) (evs := [.getStep s.env.autoStep]) (safeBefore_of_neutral rfl) ?_
  cases hx : p.hwXfer <;> simp only [replayAll, hx]
  · exact keepsGuardRule_replayAllHardware _ 0 closedBatch (keepsGuardRule_endFlush _) _
  · exact keepsGuardRule_replayAllFallback _ 0 (keepsGuardRule_endFlush _) _

end Flush

/-! ### XFER (R200, R201), FILL (R204) and COPY (R206) -/

section Direct

variable (p : Params) {after : State → State}

theorem haltsReturn_zero (e : Env) : HaltsReturn e 0 := .inr (by simp)

theorem keepsGuardRule_issueSegment (cls : DestClass) (seg : Segment) (step : Half)
    (hafter : KeepsGuardRule (p.hwXfer == .disabled) after) :
    KeepsGuardRule (p.hwXfer == .disabled) (issueSegment p cls seg step after) := by
  intro s
  by_cases h : HaltsReturn s.env (hardwareTransfers p 1)
  · rw [issueSegment_eq p s after cls seg step h]
    exact obeysFrom_of_talked (safeBefore_segmentEvents p _ _ _ cls seg step) (hafter _)
  · cases hx : p.hwXfer <;> simp only [hardwareTransfers, hx] at h
    · rw [issueSegment_of_never p s after cls seg step hx h]
      exact obeysFrom_of_talked (safeBefore_of_neutral (neutral_stepEvents _ step)) (obeysFrom_hungTransfer p _ _)
    · exact absurd (haltsReturn_zero s.env) h

theorem keepsGuardRule_transferLow (cls : DestClass) (low : Segment) (step : Half) :
    KeepsGuardRule (p.hwXfer == .disabled) (transferLow p cls low step) :=
  keepsGuardRule_waitIdle _ (keepsGuardRule_issueSegment p cls low step (keepsGuardRule_respond 1#32))

theorem keepsGuardRule_transferNow (cls : DestClass) (src : SrcAddr) (dst len step : Half) :
    KeepsGuardRule (p.hwXfer == .disabled) (transferNow p cls src dst len step) := by
  intro s
  unfold transferNow
  split
  · next low high _ =>
    exact keepsGuardRule_waitIdle _
      (keepsGuardRule_issueSegment p cls high stepSentinel (keepsGuardRule_transferLow p cls low step)) s
  · next seg _ =>
    exact keepsGuardRule_waitIdle _ (keepsGuardRule_issueSegment p cls seg step (keepsGuardRule_respond 1#32)) s

/-- The CTRL word after the fill suffix comes just after the `HALT` of its sequence, and none follows it. -/
theorem keepsGuardRule_fillFromIdle (dst len : Half) (val : Byte) (step : Half) :
    KeepsGuardRule false (fillFromIdle p dst len val step) := by
  intro s
  by_cases h : HaltsReturn s.env 1
  · rw [fillFromIdle_eq p s dst len val step h, List.append_assoc]
    refine obeysFrom_of_talked (.append ?_ ?_) (keepsGuardRule_respond 1#32 _)
    · exact safeBefore_of_neutral (by split <;> rfl)
    · intro rest hrest afterHalt
      cases s.env.busTaken <;> exact hrest false
  · rw [fillFromIdle_of_never p s dst len val step h]
    exact obeysFrom_hungInHalt (List.append_assoc .. ▸ safeBefore_of_neutral (by split <;> rfl) _ fun _ => rfl)

theorem keepsGuardRule_copyFromIdle (srcoff dst len step : Half) :
    KeepsGuardRule false (copyFromIdle p srcoff dst len step) := by
  intro s
  have hsteps := safeBefore_of_neutral (copier := false) (neutral_stepEvents s.env.autoStep step)
  by_cases h : HaltsReturn s.env 1
  · rw [copyFromIdle_eq p s srcoff dst len step h, List.append_assoc]
    refine obeysFrom_of_talked (hsteps.append ?_) (keepsGuardRule_respond 1#32 _)
    intro rest hrest afterHalt
    cases s.env.busTaken <;> exact hrest false
  · rw [copyFromIdle_of_never p s srcoff dst len step h]
    exact obeysFrom_hungInHalt (List.append_assoc .. ▸ hsteps _ fun _ => rfl)

end Direct

/-! ### The other commands, and the obligation -/

section Commands

variable {copier : Bool} (p : Params)

/-- A store talks neither to the Register Port nor to the coprocessor (R153, R154). -/
theorem obeysFrom_of_storeOne {cls : DestClass} {seg : Segment} {step : Half} {s t : State}
    (h : ObeysFrom copier (storeOne p cls seg step s) t) : ObeysFrom copier s t := by
  obtain ⟨evs, htrace, hevs⟩ := h
  refine ⟨storeEvents p s seg ++ evs, ?_, safeBefore_of_neutral (neutral_storeEvents p s seg) _ hevs⟩
  rw [htrace, storeOne_eq, List.append_assoc]

theorem obeysFrom_enqueue (cls : DestClass) (src : SrcAddr) (dst len step : Half) (s : State) :
    ObeysFrom copier s (enqueue p cls src dst len step s) := by
  unfold enqueue
  split
  · exact obeysFrom_raise p _ s
  · split
    · split
      · exact obeysFrom_raise p _ s
      · exact obeysFrom_of_storeOne p (obeysFrom_of_storeOne p (keepsGuardRule_respond _ _))
    · exact obeysFrom_of_storeOne p (keepsGuardRule_respond _ _)

/-- A command that checks its source address first (R98). -/
theorem keepsGuardRule_checked (src : SrcAddr) {after : State → State} (hafter : KeepsGuardRule copier after) :
    KeepsGuardRule copier (fun s => if srcOdd src then raise p .badCommand s else after s) := by
  intro s
  beta_reduce
  split
  · exact obeysFrom_raise p _ s
  · exact hafter s

theorem keepsGuardRule_swcopy (trig : Word) (src : SrcAddr) (len step : Half) :
    KeepsGuardRule true (fun s => respond 1#32 (softwareCopy p trig src len step s)) := by
  intro s
  beta_reduce
  rw [softwareCopy_eq]
  exact obeysFrom_of_talked (safeBefore_copierEvents p _ trig src len step) (keepsGuardRule_respond 1#32 _)

end Commands

/-- Every command obeys the rule for whoever moves its data. -/
theorem exec_obeysGuardRule {i : Instr} {s t : State} (hi : i.isCommand = true) (h : exec i s = .next t) :
    ObeysFrom (usesCopier Config.params i) s t := by
  cases i with
  | init | setcfg | clrq | qsize | qbytes | qovf => cases h; exact keepsGuardRule_respond _ _
  | enq cls src dst len step =>
    cases h
    exact keepsGuardRule_checked _ src (obeysFrom_enqueue _ cls src dst len step) s
  | flush => cases h; exact keepsGuardRule_waitIdle _ keepsGuardRule_flushFromIdle s
  | xfer cls src dst len step =>
    cases h
    exact keepsGuardRule_checked _ src (keepsGuardRule_transferNow _ cls src dst len step) s
  | fill dst len val step => cases h; exact keepsGuardRule_waitIdle _ (keepsGuardRule_fillFromIdle _ dst len val step) s
  | copy srcoff dst len step =>
    cases h
    exact keepsGuardRule_waitIdle _ (keepsGuardRule_copyFromIdle _ srcoff dst len step) s
  | swcopy trig src len step =>
    cases h
    exact keepsGuardRule_checked _ src (keepsGuardRule_swcopy _ trig src len step) s
  | w1Length | w2MidStep | w3HiLo | w4Trigger | fillSuffix | copySuffix | fillData => cases hi

/-- The rule as the obligation states it, read from the beginning of a command. -/
theorem ObeysGuardRule.check {copier : Bool} {evs : List Event} (h : ObeysGuardRule copier evs) :
    (if copier then evs.all (fun e => !touchesCoprocessor e) else triggersGuarded evs) = true := by
  cases copier with
  | true => exact h
  | false => exact h false

/-- Settles O55: command by command, and the low segment of an XFER alone. -/
theorem everyTriggerIsGuarded : Obligations.EveryTriggerIsGuarded := by
  constructor
  · intro i s t hi hexec
    obtain ⟨evs, htrace, hevs⟩ := exec_obeysGuardRule hi hexec
    exact ⟨evs, htrace, hevs.check⟩
  · intro cls low step s t hresume
    cases hresume
    obtain ⟨evs, htrace, hevs⟩ := keepsGuardRule_transferLow Config.params cls low step s
    exact ⟨evs, htrace, by simpa only [beq_iff_eq] using hevs.check⟩

end Sys2Proof.Machine
end

section
/-!
PROOFS. The queue controller's commands that only read or set registers (41_queue_controller.md R150, R151, R156 to R159): each
answers RESP for a state that differs from the one before in the command's own registers.
-/

namespace Sys2Proof.Machine

open Sys2Proof BitVec

variable (s : State)

/-! ### The policy bits -/

@[simp] theorem autoflush_respond (v : Word) : (respond v s).autoflush = s.autoflush := rfl

@[simp] theorem ignover_respond (v : Word) : (respond v s).ignover = s.ignover := rfl

/-- SETCFG's AUTOFLUSH flag is bit 0 of the CFG it writes (R30). -/
theorem getLsbD_zero_cfgOf (autoflush ignover : Bool) : (cfgOf autoflush ignover).getLsbD 0 = autoflush := by
  rw [cfgOf, getLsbD_append, if_pos (by decide), getLsbD_ofBool]
  simp

/-- SETCFG's IGNOVER flag is bit 1 of the CFG it writes (R30). -/
theorem getLsbD_one_cfgOf (autoflush ignover : Bool) : (cfgOf autoflush ignover).getLsbD 1 = ignover := by
  rw [cfgOf, getLsbD_append, if_neg (by decide), getLsbD_ofBool]
  simp

/-! ### RESP and the counters -/

/-- Answering RESP writes it, records it as the one new event, and leaves every other field (R31). -/
theorem respond_eq (v : Word) : respond v s = { s with resp := v, trace := s.trace ++ [.resp v] } := rfl

theorem respond_clearQueue_eq (v : Word) :
    respond v (clearQueue s) =
      { s with qcount := 0#16, ovfidx := 0#16, qbytes := 0#32, resp := v, trace := s.trace ++ [.resp v] } := rfl

/-! ### What each command answers -/

theorem exec_init (cap : Half) (budget : Word) :
    exec (.init cap budget) s =
      .next (respond 1#32 (clearQueue { s.forgetSlots with cap := cap, budget := budget })) := rfl

theorem exec_setcfg (autoflush ignover : Bool) :
    exec (.setcfg autoflush ignover) s = .next (respond 1#32 { s with cfg := cfgOf autoflush ignover }) := rfl

theorem exec_clrq : exec .clrq s = .next (respond 1#32 (clearQueue s)) := rfl

theorem exec_qsize : exec .qsize s = .next (respond (s.qcount.setWidth 32) s) := rfl

theorem exec_qbytes : exec .qbytes s = .next (respond s.qbytes s) := rfl

theorem exec_qovf : exec .qovf s = .next (respond (s.ovfidx.setWidth 32) s) := rfl

/-! ### The obligations -/

/-- Settles O12: of the fields INIT does not set, forgetting the slots touches none that the statement names. -/
theorem initSetsUpAnEmptyQueue : Obligations.InitSetsUpAnEmptyQueue := by
  intro cap budget s
  refine ⟨_, exec_init s cap budget, ?_⟩
  simp [SameOutside, SameSource]

/-- Settles O13: the two bits of the new CFG are the flags, and answering RESP leaves them. -/
theorem setcfgWritesBothPolicyBits : Obligations.SetcfgWritesBothPolicyBits := by
  intro autoflush ignover s
  refine ⟨_, exec_setcfg s autoflush ignover, ?_, ?_, respond_eq _ _⟩
  · rw [autoflush_respond]
    exact getLsbD_zero_cfgOf autoflush ignover
  · rw [ignover_respond]
    exact getLsbD_one_cfgOf autoflush ignover

/-- Settles O14. -/
theorem clrqClearsTheCounters : Obligations.ClrqClearsTheCounters := by
  intro s
  rw [exec_clrq, respond_clearQueue_eq]

/-- Settles O15: each accessor answers its counter in RESP, and answering leaves every other field. -/
theorem accessorsAnswerTheCounters : Obligations.AccessorsAnswerTheCounters := by
  intro s
  rw [exec_qsize, exec_qbytes, exec_qovf]
  exact ⟨congrArg _ (respond_eq s _), congrArg _ (respond_eq s _), congrArg _ (respond_eq s _)⟩

end Sys2Proof.Machine
end

section
/-!
PROOFS. The flush engine (42_flush_engine.md): where its Halts return, FLUSH is its wait, its step question, the replay of the
slots as R182 to R184 prescribe it, and its two closing steps; R185's five properties are read off that trace.
-/

namespace Sys2Proof.Machine

open Sys2Proof

/-! ### The Halts still to come -/

theorem HaltsReturn.first {e : Env} {n : Nat} (h : HaltsReturn e (n + 1)) : HaltsReturn e 1 :=
  h.imp_right fun hrel r hr => hrel r (List.take_subset_take_left _ (Nat.le_add_left 1 n) hr)

/-- A transfer that gives the bus back uses up one Halt, and only where the bus was not taken. -/
theorem HaltsReturn.afterTransfer {e : Env} {n : Nat} (h : HaltsReturn e (n + 1)) (p : Params) (w2 : Word) :
    HaltsReturn (e.afterTransfer p w2) n := by
  cases hb : e.busTaken with
  | true => exact .inl hb
  | false =>
    have hrel := h.resolve_left (by simp [hb])
    refine .inr fun r hr => ?_
    rw [afterTransfer_releases, hb] at hr
    cases hrs : e.releases with
    | nil => simp [hrs] at hr
    | cons r' rs =>
      rw [hrs] at hr hrel
      exact hrel r (List.mem_cons_of_mem r' hr)

/-! ### The replay (R180 step 4) -/

/-- Slots i .. i + n − 1, in order. -/
def slotsFrom (s : State) (i n : Nat) : List Descriptor := (List.range' i n).map s.slot

theorem firstSlots_eq_slotsFrom (s : State) (n : Nat) : firstSlots s n = slotsFrom s 0 n := by
  rw [firstSlots, slotsFrom, List.range_eq_range']

theorem slotsFrom_succ (s : State) (i n : Nat) : slotsFrom s i (n + 1) = s.slot i :: slotsFrom s (i + 1) n := rfl

/-- A descriptor replayed in a batch that is open already (R129). -/
def laterInBatchEvents (d : Descriptor) : List Event := [.cw32 d.w1, .cw32 d.w2, .cw32 d.w3, .halt, .cw32 d.w4]

theorem perBatchEvents_cons (wasTaken : Bool) (d : Descriptor) (ds : List Descriptor) :
    perBatchEvents wasTaken (d :: ds) =
      [.cw32 d.w1, .cw32 d.w2, .cw32 d.w3, .taken wasTaken, .halt, .cw32 d.w4] ++ ds.flatMap laterInBatchEvents := rfl

section Replay

variable {p : Params} {s : State} (after : State → State)

/-- PER_TRIGGER scope: each slot with its own trigger sequence (R128). -/
theorem replayAllHardware_perTrigger_eq (hp : p.haltScope = .perTrigger) (n i : Nat) (b : Batch)
    (h : HaltsReturn s.env n) :
    ∃ v, replayAllHardware p n i b after s =
      after (s.talked ((slotsFrom s i n).flatMap (perTriggerEvents s.env.busTaken)) v) := by
  induction n generalizing s i b with
  | zero =>
    refine ⟨s.env, ?_⟩
    rw [replayAllHardware, endReplay, hp]
    exact congrArg after (talked_nil s).symm
  | succ n ih =>
    rw [replayAllHardware, replayHardware_perTrigger_eq p s _ (s.slot i) b hp h.first]
    obtain ⟨v, hv⟩ := ih (s := s.talked _ _) (i + 1) (replayBatch p (s.slot i) b s) (h.afterTransfer p (s.slot i).w2)
    refine ⟨v, hv.trans ?_⟩
    rw [talked_talked, slotsFrom_succ, List.flatMap_cons]
    rfl

/-- The end of an open batch: resumed, where the bus was not taken before its first trigger (R130). -/
theorem endReplay_openBatch_eq (hp : p.haltScope = .perBatch) {b : Batch} (hb : b.isOpen = true) :
    ∃ v, endReplay p b s = s.talked (resumeEvents b.taken) v := by
  rw [endReplay, hp]
  cases ht : b.taken <;> simp only [batchEnd_eq, hb, ht]
  · exact ⟨_, rfl⟩
  · exact ⟨s.env, (talked_nil s).symm⟩

/-- PER_BATCH scope, the batch being open: the bus stays taken until the batch's end (R129, R130). -/
theorem replayAllHardware_openBatch_eq (hp : p.haltScope = .perBatch) (n i : Nat) {b : Batch} (hb : b.isOpen = true)
    (ht : s.env.busTaken = true) :
    ∃ v, replayAllHardware p n i b after s =
      after (s.talked ((slotsFrom s i n).flatMap laterInBatchEvents ++ resumeEvents b.taken) v) := by
  induction n generalizing s i with
  | zero =>
    obtain ⟨v, hv⟩ := endReplay_openBatch_eq (s := s) hp hb
    exact ⟨v, congrArg after hv⟩
  | succ n ih =>
    rw [replayAllHardware, replayHardware_perBatch_eq p s _ (s.slot i) b hp (.inl ht),
      replayBatch_perBatch_eq p s (s.slot i) b hp, if_pos hb, if_pos hb]
    obtain ⟨v, hv⟩ :=
      ih (s := s.talked _ { s.env.afterTransfer p (s.slot i).w2 with busTaken := true }) (i + 1) rfl
    refine ⟨v, hv.trans ?_⟩
    rw [talked_talked, slotsFrom_succ, List.flatMap_cons, List.append_assoc]
    rfl

/-- PER_BATCH scope: the first slot opens the batch, with the only sample of the bus (R129). -/
theorem replayAllHardware_perBatch_eq (hp : p.haltScope = .perBatch) (n : Nat) (h : HaltsReturn s.env (min n 1)) :
    ∃ v, replayAllHardware p n 0 closedBatch after s =
      after (s.talked (perBatchEvents s.env.busTaken (slotsFrom s 0 n) ++
        if (slotsFrom s 0 n).isEmpty then [] else resumeEvents s.env.busTaken) v) := by
  cases n with
  | zero =>
    refine ⟨s.env, ?_⟩
    rw [replayAllHardware, endReplay, hp]
    exact congrArg after (talked_nil s).symm
  | succ n =>
    rw [replayAllHardware, replayHardware_perBatch_eq p s _ (s.slot 0) closedBatch hp (by simpa using h),
      replayBatch_perBatch_eq p s (s.slot 0) closedBatch hp]
    obtain ⟨v, hv⟩ := replayAllHardware_openBatch_eq
      (s := s.talked _ { s.env.afterTransfer p (s.slot 0).w2 with busTaken := true })
      (b := { isOpen := true, taken := s.env.busTaken }) after hp n 1 rfl rfl
    refine ⟨v, hv.trans ?_⟩
    rw [talked_talked, slotsFrom_succ, perBatchEvents_cons, List.append_assoc]
    rfl

/-- HWXFER disabled: the copier moves each slot's data (R183). -/
theorem replayAllFallback_eq (n i : Nat) :
    ∃ v, replayAllFallback p n i s =
      s.talked ((slotsFrom s i n).flatMap fun d =>
        copierEvents p s.srcMem d.w4 (unpackSrc d.w2 d.w3) (unpackLen d.w1) (unpackStep d.w2)) v := by
  induction n generalizing s i with
  | zero => exact ⟨s.env, (talked_nil s).symm⟩
  | succ n ih =>
    rw [replayAllFallback, replayFallback_eq]
    obtain ⟨v, hv⟩ := ih (s := s.talked _ _) (i + 1)
    refine ⟨v, hv.trans ?_⟩
    rw [talked_talked, slotsFrom_succ, List.flatMap_cons]
    rfl

/-- Step 4 of FLUSH emits the events R182 to R184 prescribe, and only talks (R180). -/
theorem replayAll_eq (n : Nat) (h : HaltsReturn s.env (flushHalts p n)) :
    ∃ v, replayAll p n after s = after (s.talked (replayEvents p s (firstSlots s n)) v) := by
  rw [firstSlots_eq_slotsFrom]
  cases hx : p.hwXfer with
  | enabled =>
    cases hp : p.haltScope <;> simp only [flushHalts, hardwareTransfers, hp, hx] at h <;>
      simp only [replayAll, replayEvents, hp, hx]
    · exact replayAllHardware_perTrigger_eq after hp n 0 closedBatch h
    · exact replayAllHardware_perBatch_eq after hp n h
  | disabled =>
    simp only [replayAll, replayEvents, hx]
    obtain ⟨v, hv⟩ := replayAllFallback_eq (p := p) (s := s) n 0
    exact ⟨v, congrArg after hv⟩

end Replay

/-! ### FLUSH from its wait to its RESP (R180) -/

/-- The events of a FLUSH that passes its wait and whose Halts return. -/
def flushEvents (p : Params) (s : State) : List Event :=
  [.wait, .getStep s.env.autoStep] ++ replayEvents p s (firstSlots s s.replayCount.toNat) ++
    [.setStep s.env.autoStep, .resp 1#32]

/-- The closing steps of FLUSH after everything it said before (R180 steps 5 and 6). -/
theorem endFlush_talked_eq (saved : Half) (s : State) (evs : List Event) (v : Env) :
    endFlush saved (s.talked evs v) =
      { s with
        qcount := 0#16, ovfidx := 0#16, qbytes := 0#32, resp := 1#32, env := { v with autoStep := saved }
        trace := s.trace ++ (evs ++ [.setStep saved, .resp 1#32]) } := by
  rw [endFlush, setAutoStep_eq, talked_talked, respond_clearQueue_eq]
  simp [State.talked]

/-- FLUSH emits `flushEvents`, restores the auto-increment, clears the counters and answers RESP 1; else it only talks. -/
theorem exec_flush_eq {s : State} (hi : s.env.engine = .idle)
    (h : HaltsReturn s.env (flushHalts Config.params s.replayCount.toNat)) :
    ∃ v : Env, exec .flush s =
      .next { s with
        qcount := 0#16, ovfidx := 0#16, qbytes := 0#32, resp := 1#32, env := { v with autoStep := s.env.autoStep }
        trace := s.trace ++ flushEvents Config.params s } := by
  have hexec : exec .flush s = .next (waitIdle (.start .flush) (flushFromIdle Config.params) s) := rfl
  rw [hexec, waitIdle_of_idle _ _ hi, flushFromIdle, askStep_eq, talked_talked]
  obtain ⟨v, hv⟩ := replayAll_eq (endFlush s.env.autoStep) (s := s.talked [.wait, .getStep s.env.autoStep] s.env) _ h
  refine ⟨v, congrArg Host.Outcome.next (hv.trans ?_)⟩
  rw [talked_talked, endFlush_talked_eq]
  rfl

/-! ### The CTRL words of a replay -/

theorem ctrlWords_append (evs evs' : List Event) : ctrlWords (evs ++ evs') = ctrlWords evs ++ ctrlWords evs' :=
  List.filterMap_append

theorem ctrlWords_flatMap (f : Descriptor → List Event) (ds : List Descriptor) :
    ctrlWords (ds.flatMap f) = ds.flatMap fun d => ctrlWords (f d) :=
  List.filterMap_flatMap

theorem ctrlWords_resumeEvents (wasTaken : Bool) : ctrlWords (resumeEvents wasTaken) = [] := by
  cases wasTaken <;> rfl

/-- The four command words of a descriptor, in the order they are written (R182). -/
def descriptorWords (d : Descriptor) : List Word := [d.w1, d.w2, d.w3, d.w4]

theorem ctrlWords_perTriggerEvents (wasTaken : Bool) (d : Descriptor) :
    ctrlWords (perTriggerEvents wasTaken d) = descriptorWords d := by
  rw [perTriggerEvents, ctrlWords_append, ctrlWords_resumeEvents]
  rfl

theorem ctrlWords_perBatchEvents (wasTaken : Bool) (ds : List Descriptor) :
    ctrlWords (perBatchEvents wasTaken ds) = ds.flatMap descriptorWords := by
  cases ds with
  | nil => rfl
  | cons d ds =>
    rw [perBatchEvents_cons, ctrlWords_append, ctrlWords_flatMap]
    rfl

/-- With hardware transfers the CTRL words of a replay are those of its descriptors, in both scopes. -/
theorem ctrlWords_replayEvents {p : Params} (hx : p.hwXfer = .enabled) (s : State) (ds : List Descriptor) :
    ctrlWords (replayEvents p s ds) = ds.flatMap descriptorWords := by
  cases hp : p.haltScope <;> simp only [replayEvents, hx, hp]
  · rw [ctrlWords_flatMap]
    simp only [ctrlWords_perTriggerEvents]
  · have hend : ctrlWords (if ds.isEmpty then [] else resumeEvents s.env.busTaken) = [] := by
      split
      · rfl
      · exact ctrlWords_resumeEvents _
    rw [ctrlWords_append, ctrlWords_perBatchEvents, hend, List.append_nil]

theorem ctrlWords_flushEvents {p : Params} (hx : p.hwXfer = .enabled) (s : State) :
    ctrlWords (flushEvents p s) = (firstSlots s s.replayCount.toNat).flatMap descriptorWords := by
  rw [flushEvents, ctrlWords_append, ctrlWords_append, ctrlWords_replayEvents hx]
  exact List.append_nil _

theorem length_flatMap_descriptorWords (ds : List Descriptor) : (ds.flatMap descriptorWords).length = 4 * ds.length := by
  simp [descriptorWords, List.length_flatMap, Nat.mul_comm]

theorem length_firstSlots (s : State) (n : Nat) : (firstSlots s n).length = n := by
  simp [firstSlots]

/-! ### No PEND and no DIAG -/

/-- Neither PEND nor DIAG: what a FLUSH may emit. -/
def isQuiet : Event → Bool
  | .pend | .diag _ => false
  | _ => true

theorem isQuiet_iff (e : Event) : isQuiet e = true ↔ e ≠ .pend ∧ ∀ d, e ≠ .diag d := by
  cases e <;> simp [isQuiet]

theorem quiet_flatMap {f : Descriptor → List Event} (h : ∀ d, (f d).all isQuiet = true) (ds : List Descriptor) :
    (ds.flatMap f).all isQuiet = true := by
  simp [List.all_flatMap, h]

theorem quiet_resumeEvents (wasTaken : Bool) : (resumeEvents wasTaken).all isQuiet = true := by
  cases wasTaken <;> rfl

theorem quiet_perTriggerEvents (wasTaken : Bool) (d : Descriptor) :
    (perTriggerEvents wasTaken d).all isQuiet = true := by
  rw [perTriggerEvents, List.all_append, quiet_resumeEvents]
  rfl

theorem quiet_perBatchEvents (wasTaken : Bool) (ds : List Descriptor) :
    (perBatchEvents wasTaken ds).all isQuiet = true := by
  cases ds with
  | nil => rfl
  | cons d ds =>
    rw [perBatchEvents_cons, List.all_append, quiet_flatMap fun _ => rfl]
    rfl

theorem quiet_copierEvents (p : Params) (m : Memory) (trig : Word) (src : SrcAddr) (len step : Half) :
    (copierEvents p m trig src len step).all isQuiet = true := by
  simp [copierEvents, copierPairs, isQuiet]

theorem quiet_replayEvents (p : Params) (s : State) (ds : List Descriptor) :
    (replayEvents p s ds).all isQuiet = true := by
  unfold replayEvents
  split
  · exact quiet_flatMap (quiet_perTriggerEvents _) ds
  · rw [List.all_append, quiet_perBatchEvents]
    split
    · rfl
    · exact quiet_resumeEvents _
  · exact quiet_flatMap (fun d => quiet_copierEvents p _ d.w4 _ _ _) ds

theorem quiet_flushEvents (p : Params) (s : State) : (flushEvents p s).all isQuiet = true := by
  rw [flushEvents, List.all_append, List.all_append, quiet_replayEvents]
  rfl

/-! ### The obligation -/

/-- R131 for the events of a FLUSH whose Halts return, by the rule every command obeys. -/
theorem flushEvents_obeysGuardRule {s : State} (hi : s.env.engine = .idle)
    (h : HaltsReturn s.env (flushHalts Config.params s.replayCount.toNat)) :
    ObeysGuardRule (Config.params.hwXfer == .disabled) (flushEvents Config.params s) := by
  obtain ⟨v, hexec⟩ := exec_flush_eq hi h
  obtain ⟨evs, htrace, hobeys⟩ := exec_obeysGuardRule rfl hexec
  exact List.append_cancel_left htrace ▸ hobeys

/-- Settles O23: each property is one of `flushEvents`, but for the QSIZE after it, which meets a cleared QCOUNT. -/
theorem flushHasItsFiveProperties : Obligations.FlushHasItsFiveProperties := by
  intro s hi hhalts
  obtain ⟨v, hexec⟩ := exec_flush_eq hi hhalts
  have hguard := (flushEvents_obeysGuardRule hi hhalts).check
  refine ⟨flushEvents Config.params s, _, _, hexec, rfl, exec_qsize _, rfl, ?_, ⟨_, rfl⟩,
    fun e he => (isQuiet_iff e).mp (List.all_eq_true.mp (quiet_flushEvents _ s) e he)⟩
  cases hx : Config.params.hwXfer <;> rw [hx] at hguard
  case enabled =>
    have hwords := ctrlWords_flushEvents hx s
    refine ⟨hwords, ?_, hguard⟩
    rw [hwords, length_flatMap_descriptorWords, length_firstSlots]
  case disabled => exact hguard

end Sys2Proof.Machine
end

section
/-!
PROOFS. The exceptions (60_exceptions.md): what ENQ does where the queue is full (R241), and a wait that never ends because the
engine never becomes idle (R243).
-/

namespace Sys2Proof.Machine

open Sys2Proof

/-! ### The queue is full -/

section QueueFull

variable (p : Params) (cls : DestClass) {src : SrcAddr} (dst : Half) {len : Half} (step : Half) {s : State}

theorem queueFull_iff : s.queueFull = true ↔ s.cap.toNat ≤ s.qcount.toNat := decide_eq_true_iff

theorem noRoomForTwo_iff : s.noRoomForTwo = true ↔ s.cap.toNat < s.qcount.toNat + 2 := decide_eq_true_iff

/-- An even source address passes ENQ's check (R98). -/
theorem exec_enq_of_even (heven : srcEven src = true) :
    exec (.enq cls src dst len step) s = .next (enqueue Config.params cls src dst len step s) := by
  have hodd : srcOdd src = false := by rw [srcOdd_eq, heven, Bool.not_true]
  have harm : exec (.enq cls src dst len step) s = execEnq cls src dst len step s := rfl
  rw [harm, execEnq, hodd, if_neg Bool.false_ne_true]

theorem enqueue_of_queueFull (h : s.queueFull = true) : enqueue p cls src dst len step s = raise p .queueFull s :=
  if_pos h

/-- A crossing request that finds no room for two descriptors is dropped whole, even where one slot is free (R152, D10). -/
theorem enqueue_of_noRoomForTwo (hcross : wordsToBoundary src < len.toNat) (h : s.noRoomForTwo = true) :
    enqueue p cls src dst len step s = raise p .queueFull s := by
  simp only [enqueue, decompose_of_crosses hcross, h, if_true, ite_self]

end QueueFull

/-- Settles O16: both causes raise QueueFull, which changes RESP and the trace only. -/
theorem enqRefusesWhenTheQueueIsFull : Obligations.EnqRefusesWhenTheQueueIsFull := by
  intro cls src dst len step s heven hfull
  have hraise : enqueue Config.params cls src dst len step s = raise Config.params .queueFull s := by
    obtain hcap | ⟨hcross, hroom⟩ := hfull
    · exact enqueue_of_queueFull _ cls dst step (queueFull_iff.mpr hcap)
    · have hwords := two_mul_wordsToBoundary heven
      rw [bytesToBoundary_eq] at hwords
      exact enqueue_of_noRoomForTwo _ cls dst step (by omega) (noRoomForTwo_iff.mpr hroom)
  rw [exec_enq_of_even cls dst step heven, hraise, raise_eq]
  rfl

/-! ### The engine never becomes idle -/

/-- A run from a state that a step leaves as it is stays there. -/
theorem run_of_step_self {M : Host.Core} {s : M.State} (h : M.step s = .next s) (n : Nat) : M.run n s = .next s := by
  induction n with
  | zero => rfl
  | succ n ih => simp only [Host.Core.run, h, ih]

/-- While a command is held and the engine is not idle, a step is a turn of the engine (R58). -/
theorem step_of_held_of_busy {s : State} {h : Held} (hheld : s.held = some h) (hbusy : s.env.engine ≠ .idle) :
    step s = .next (engineTurn s) := by
  simp only [step, hheld, heldTurn, if_neg hbusy]

/-- Its own turn leaves an engine that is never idle again as it is (R243). -/
theorem engineTurn_of_never {s : State} (h : s.env.engine = .never) : engineTurn s = s := by
  have hturn : turnOf s.env.engine = s.env.engine := by rw [h]; rfl
  rw [engineTurn, hturn]
  rfl

/-- Settles O28: a step is a turn of the engine, which changes nothing. -/
theorem neverIdleEngineHangsTheCommand : Obligations.NeverIdleEngineHangsTheCommand := by
  intro s h n hheld hnever
  have hstep : step s = .next s := by
    rw [step_of_held_of_busy hheld (by simp [hnever]), engineTurn_of_never hnever]
  exact run_of_step_self (M := Sys2Proof.core) hstep n

end Sys2Proof.Machine
end

section
/-!
PROOFS. The decoder against the encoder and the opcode table (30_encoding.md): decoding undoes encoding for all nineteen
instructions, whatever decodes is well formed and matches its row of the table, and a step runs it.
-/

namespace Sys2Proof.Machine

open Sys2Proof BitVec

/-! ### Packets -/

/-- With SRC, DST, LEN, STEP and CLS in use, the other fields of ENQ's and XFER's packing are zero. -/
theorem withClass_packed {op : Byte} (cls : DestClass) {src : SrcAddr} (dst len step : Half) (k : DestClass → Instr)
    (heven : srcEven src = true) :
    withClass (packed op src dst len step 0#8 cls.toField 0#32) k = .ok (k cls) := by
  refine withClass_eq_ok_iff.mpr ⟨⟨?_, ?_⟩, cls, ?_, rfl⟩
  · simp [Packet.zeroFields]
  · simpa using heven
  · simp

/-- SETCFG's two flags are the two low bits of AUX, and no other bit of it is set (R94). -/
theorem setcfg_aux (autoflush ignover : Bool) :
    let aux : Word := 0#30 ++ ofBool ignover ++ ofBool autoflush
    aux &&& 0xFFFFFFFC#32 = 0#32 ∧ aux[0] = autoflush ∧ aux[1] = ignover := by
  revert autoflush ignover
  decide

/-- COPY's offset is the low half of SRC, whose high byte is zero (R95). -/
theorem copy_src (srcoff : Half) :
    (0#8 ++ srcoff : SrcAddr) &&& 0xFF0000#24 = 0#24 ∧ (0#8 ++ srcoff : SrcAddr).extractLsb' 0 16 = srcoff := by
  refine ⟨?_, extractLsb'_append_eq_right⟩
  exact (append_and 0#8 0xFF#8 srcoff 0#16).trans (by simp)

/-! ### Port words, told apart by their constant bits (R81 to R87; log 12) -/

/-- A field under a mask that holds all its bits is the masked value's field. -/
theorem extractLsb'_of_and_eq {w : Nat} {x m v : BitVec w} (h : x &&& m = v) (a k : Nat)
    (hm : m.extractLsb' a k = allOnes k) : x.extractLsb' a k = v.extractLsb' a k := by
  rw [← h, extractLsb'_and_of_ones x m hm]

/-- The highest byte of a word that reads as W1, W2 or W3 tells which of the three it is. -/
theorem highByte_of_masked {w : Word} :
    (w &&& 0xFF00FF00#32 = 0x94009300#32 → w.extractLsb' 24 8 = 0x94#8) ∧
      (w &&& 0xFF00FF00#32 = 0x96008F00#32 → w.extractLsb' 24 8 = 0x96#8) ∧
      (w &&& 0xFF80FF00#32 = 0x97009500#32 → w.extractLsb' 24 8 = 0x97#8) :=
  ⟨fun h => extractLsb'_of_and_eq h 24 8 rfl, fun h => extractLsb'_of_and_eq h 24 8 rfl,
    fun h => extractLsb'_of_and_eq h 24 8 rfl⟩

theorem decodePort32_of_w1 {w : Word} (h : w &&& 0xFF00FF00#32 = 0x94009300#32) :
    decodePort32 w = .w1Length (w.extractLsb' 16 8 ++ w.extractLsb' 0 8) := if_pos h

theorem decodePort32_of_w2 {w : Word} (h : w &&& 0xFF00FF00#32 = 0x96008F00#32) :
    decodePort32 w = .w2MidStep (w.extractLsb' 16 8) (w.extractLsb' 0 8) := by
  have hnot : ¬w &&& 0xFF00FF00#32 = 0x94009300#32 := by simp [h]
  rw [decodePort32, if_neg hnot, if_pos h]

theorem decodePort32_of_w3 {w : Word} (h : w &&& 0xFF80FF00#32 = 0x97009500#32) :
    decodePort32 w = .w3HiLo (w.extractLsb' 16 7) (w.extractLsb' 0 8) := by
  obtain ⟨h1, h2, h3⟩ := highByte_of_masked (w := w)
  have hnot1 : ¬w &&& 0xFF00FF00#32 = 0x94009300#32 := fun h' => absurd ((h1 h').symm.trans (h3 h)) (by decide)
  have hnot2 : ¬w &&& 0xFF00FF00#32 = 0x96008F00#32 := fun h' => absurd ((h2 h').symm.trans (h3 h)) (by decide)
  rw [decodePort32, if_neg hnot1, if_neg hnot2, if_pos h]

theorem loneTrigger_iff {w : Word} :
    loneTrigger w = true ↔ ¬w &&& 0xFF00FF00#32 = 0x94009300#32 ∧ ¬w &&& 0xFF00FF00#32 = 0x96008F00#32 ∧
      ¬w &&& 0xFF80FF00#32 = 0x97009500#32 := by
  simp only [loneTrigger, isW1, isW2, isW3, Bool.and_eq_true, Bool.not_eq_true', beq_eq_false_iff_ne, ne_eq]
  tauto

theorem decodePort32_of_trigger {w : Word} (h : loneTrigger w = true) : decodePort32 w = .w4Trigger w := by
  obtain ⟨h1, h2, h3⟩ := loneTrigger_iff.mp h
  rw [decodePort32, if_neg h1, if_neg h2, if_neg h3]

/-- The constant bits of an encoded word, from its row of the table. -/
theorem masked_of_matchesRow {i : Instr} {w : Word} (m v : Word) (h : Laws.EncodingMatchesRow.Statement i)
    (hwf : i.wellFormed = true) (henc : encode i = .port32 w) (hm : i.tableRow.mask = m.toNat)
    (hv : i.tableRow.value = v.toNat) : w &&& m = v := by
  have hrow := h.2 hwf
  rw [henc, hm, hv] at hrow
  exact eq_of_toNat_eq (by rw [toNat_and]; exact hrow)

theorem decode_encode_w1Length (len : Half) : decode (encode (.w1Length len)) = .ok (.w1Length len) := by
  have hmask := masked_of_matchesRow 0xFF00FF00#32 0x94009300#32 (Laws.EncodingMatchesRow.w1Length len) rfl rfl rfl rfl
  have hhigh : (0x94#8 ++ len.extractLsb' 8 8 ++ 0x93#8 ++ len.extractLsb' 0 8 : Word).extractLsb' 16 8 =
      len.extractLsb' 8 8 := by
    apply eq_of_toNat_eq
    simp only [toNat_append_eq, toNat_field, toNat_ofNat]
    omega
  have hlow : (0x94#8 ++ len.extractLsb' 8 8 ++ 0x93#8 ++ len.extractLsb' 0 8 : Word).extractLsb' 0 8 =
      len.extractLsb' 0 8 := extractLsb'_append_eq_right
  have hlen : len.extractLsb' 8 8 ++ len.extractLsb' 0 8 = len :=
    (extractLsb'_append_extractLsb'_eq_extractLsb' (by omega)).trans extractLsb'_eq_self
  rw [encode, decode, decodePort32_of_w1 hmask, hhigh, hlow, hlen]

theorem decode_encode_w2MidStep (mid step : Byte) :
    decode (encode (.w2MidStep mid step)) = .ok (.w2MidStep mid step) := by
  have hmask := masked_of_matchesRow 0xFF00FF00#32 0x96008F00#32 (Laws.EncodingMatchesRow.w2MidStep mid step) rfl rfl rfl rfl
  have hmid : (0x96#8 ++ mid ++ 0x8F#8 ++ step : Word).extractLsb' 16 8 = mid := by
    apply eq_of_toNat_eq
    simp only [toNat_append_eq, toNat_field, toNat_ofNat]
    omega
  have hstep : (0x96#8 ++ mid ++ 0x8F#8 ++ step : Word).extractLsb' 0 8 = step := extractLsb'_append_eq_right
  rw [encode, decode, decodePort32_of_w2 hmask, hmid, hstep]

theorem decode_encode_w3HiLo (hi : BitVec 7) (lo : Byte) : decode (encode (.w3HiLo hi lo)) = .ok (.w3HiLo hi lo) := by
  have hmask := masked_of_matchesRow 0xFF80FF00#32 0x97009500#32 (Laws.EncodingMatchesRow.w3HiLo hi lo) rfl rfl rfl rfl
  have hhi : (0x97#8 ++ 0#1 ++ hi ++ 0x95#8 ++ lo : Word).extractLsb' 16 7 = hi := by
    apply eq_of_toNat_eq
    simp only [toNat_append_eq, toNat_field, toNat_ofNat]
    omega
  have hlo : (0x97#8 ++ 0#1 ++ hi ++ 0x95#8 ++ lo : Word).extractLsb' 0 8 = lo := extractLsb'_append_eq_right
  rw [encode, decode, decodePort32_of_w3 hmask, hhi, hlo]

/-- A doubled byte is neither suffix, whose two bytes differ (R85 to R87). -/
theorem decode_encode_fillData (val : Byte) : decode (encode (.fillData val)) = .ok (.fillData val) := by
  have hhigh : (val ++ val : Half).extractLsb' 8 8 = val := extractLsb'_append_eq_left
  have hlow : (val ++ val : Half).extractLsb' 0 8 = val := extractLsb'_append_eq_right
  have hne {w : Half} (hw : w.extractLsb' 8 8 ≠ w.extractLsb' 0 8) : ¬val ++ val = w := by
    rintro rfl
    exact hw (hhigh.trans hlow.symm)
  rw [encode, decode, decodePort16, if_neg (hne (by decide)), if_neg (hne (by decide)), hhigh, hlow, if_pos rfl]

/-- Settles O1, instruction by instruction: a packet's fields are those it was packed from, and a port word's constant bits tell
its row. -/
theorem decodeUndoesEncode : Obligations.DecodeUndoesEncode := by
  intro i hwf
  cases i with
  | init | clrq | qsize | qbytes | qovf | flush | fill =>
    rw [encode, pack_eq]
    simp [decode, decodePacket, checked, Packet.zeroFields]
  | setcfg autoflush ignover =>
    obtain ⟨hmask, hauto, hign⟩ := setcfg_aux autoflush ignover
    rw [encode, pack_eq]
    simp [decode, decodePacket, checked, Packet.zeroFields, hmask, hauto, hign]
  | enq cls src dst len step | xfer cls src dst len step =>
    rw [encode, pack_eq]
    simp only [decode, decodePacket, packed_op]
    exact (withClass_packed cls dst len step _ hwf).trans (by simp)
  | copy srcoff dst len step =>
    obtain ⟨hmask, hoff⟩ := copy_src srcoff
    rw [encode, pack_eq]
    simp [decode, decodePacket, checked, Packet.zeroFields, hmask, hoff]
  | swcopy trig src len step =>
    rw [encode, pack_eq]
    have heven : srcEven src = true := hwf
    exact (decodePacket_swcopy_eq_ok_iff (by simp)).mpr (by simp [Packet.zeroFields, heven])
  | w1Length len => exact decode_encode_w1Length len
  | w2MidStep mid step => exact decode_encode_w2MidStep mid step
  | w3HiLo hi lo => exact decode_encode_w3HiLo hi lo
  | w4Trigger w => rw [encode, decode, decodePort32_of_trigger hwf]
  | fillSuffix | copySuffix => rfl
  | fillData val => exact decode_encode_fillData val

/-! ### Whatever decodes -/

/-- The encoding of every well-formed instruction matches its row of the table. -/
theorem encoding_matchesRow (i : Instr) : Laws.EncodingMatchesRow.Statement i := by
  cases i with
  | init cap budget => exact Laws.EncodingMatchesRow.init cap budget
  | setcfg autoflush ignover => exact Laws.EncodingMatchesRow.setcfg autoflush ignover
  | enq cls src dst len step => exact Laws.EncodingMatchesRow.enq cls src dst len step
  | clrq => exact Laws.EncodingMatchesRow.clrq
  | qsize => exact Laws.EncodingMatchesRow.qsize
  | qbytes => exact Laws.EncodingMatchesRow.qbytes
  | qovf => exact Laws.EncodingMatchesRow.qovf
  | flush => exact Laws.EncodingMatchesRow.flush
  | xfer cls src dst len step => exact Laws.EncodingMatchesRow.xfer cls src dst len step
  | fill dst len val step => exact Laws.EncodingMatchesRow.fill dst len val step
  | copy srcoff dst len step => exact Laws.EncodingMatchesRow.copy srcoff dst len step
  | swcopy trig src len step => exact Laws.EncodingMatchesRow.swcopy trig src len step
  | w1Length len => exact Laws.EncodingMatchesRow.w1Length len
  | w2MidStep mid step => exact Laws.EncodingMatchesRow.w2MidStep mid step
  | w3HiLo hi lo => exact Laws.EncodingMatchesRow.w3HiLo hi lo
  | w4Trigger word => exact Laws.EncodingMatchesRow.w4Trigger word
  | fillSuffix => exact Laws.EncodingMatchesRow.fillSuffix
  | copySuffix => exact Laws.EncodingMatchesRow.copySuffix
  | fillData val => exact Laws.EncodingMatchesRow.fillData val

/-- What a lone 32-bit word decodes to is well formed and matches its row (R81 to R84). -/
theorem decodePort32_spec (w : Word) :
    (decodePort32 w).wellFormed = true ∧ (decodePort32 w).tableRow.bits = 32 ∧
      w.toNat &&& (decodePort32 w).tableRow.mask = (decodePort32 w).tableRow.value := by
  by_cases h1 : w &&& 0xFF00FF00#32 = 0x94009300#32
  · rw [decodePort32_of_w1 h1]
    exact ⟨rfl, rfl, Laws.EncodingMatchesRow.port32_and _ _ h1⟩
  by_cases h2 : w &&& 0xFF00FF00#32 = 0x96008F00#32
  · rw [decodePort32_of_w2 h2]
    exact ⟨rfl, rfl, Laws.EncodingMatchesRow.port32_and _ _ h2⟩
  by_cases h3 : w &&& 0xFF80FF00#32 = 0x97009500#32
  · rw [decodePort32_of_w3 h3]
    exact ⟨rfl, rfl, Laws.EncodingMatchesRow.port32_and _ _ h3⟩
  · have hlone := loneTrigger_iff.mpr ⟨h1, h2, h3⟩
    rw [decodePort32_of_trigger hlone]
    exact ⟨hlone, rfl, Nat.and_zero _⟩

/-- What a lone 16-bit word decodes to is well formed and matches its row (R85 to R87). -/
theorem decodePort16_spec {w : Half} {i : Instr} (h : decodePort16 w = .ok i) :
    i.wellFormed = true ∧ i.tableRow.bits = 16 ∧ w.toNat &&& i.tableRow.mask = i.tableRow.value := by
  unfold decodePort16 at h
  split at h
  · next hw =>
    cases h
    exact ⟨rfl, rfl, hw ▸ rfl⟩
  · split at h
    · next hw =>
      cases h
      exact ⟨rfl, rfl, hw ▸ rfl⟩
    · split at h
      · cases h
        exact ⟨rfl, rfl, Nat.and_zero _⟩
      · cases h

/-- Whatever decodes is well formed and matches its row of the table. -/
theorem decode_spec {f : Fetched} {i : Instr} (h : decode f = .ok i) :
    i.wellFormed = true ∧ f.width = i.tableRow.bits ∧ f.number &&& i.tableRow.mask = i.tableRow.value := by
  cases f with
  | packet p =>
    obtain ⟨-, hwf, henc⟩ := encode_of_decodePacket h
    obtain ⟨hwidth, hrow⟩ := encoding_matchesRow i
    exact ⟨hwf, henc ▸ hwidth, henc ▸ hrow hwf⟩
  | port32 w =>
    cases h
    obtain ⟨hwf, hbits, hrow⟩ := decodePort32_spec w
    exact ⟨hwf, hbits.symm, hrow⟩
  | port16 w =>
    obtain ⟨hwf, hbits, hrow⟩ := decodePort16_spec h
    exact ⟨hwf, hbits.symm, hrow⟩

/-- Settles O5: for a packet by its encoding, for a port word by the bits that told it apart. -/
theorem decodedInstructionsMatchTheirTableRow : Obligations.DecodedInstructionsMatchTheirTableRow :=
  fun _ _ h => (decode_spec h).2

/-- Settles O53: the input is taken, and what it decodes to is run. -/
theorem stepRunsTheDecodedInstruction : Obligations.StepRunsTheDecodedInstruction := by
  intro s f rest i hheld hin hdec
  refine ⟨(decode_spec hdec).1, ?_⟩
  simp only [step, hheld, idleTurn, hin, act, runFetched, hdec]

/-! ### Words written out -/

/-- Settles O8: a COPY offset shifted left by one has its high byte in bits 16:9 and its low byte in bits 8:1. -/
theorem copyOffsetReachesTheAddressLanes : Obligations.CopyOffsetReachesTheAddressLanes := by
  intro srcoff step
  have hmid : (copyAddr srcoff).extractLsb' 9 8 = srcoff.extractLsb' 8 8 :=
    extractLsb'_shiftLeft_setWidth srcoff (by omega) (by omega)
  have hlow : (copyAddr srcoff).extractLsb' 1 8 = srcoff.extractLsb' 0 8 :=
    extractLsb'_shiftLeft_setWidth srcoff (by omega) (by omega)
  have hhigh : (copyAddr srcoff).extractLsb' 17 7 = 0#7 := by
    refine (extractLsb'_shiftLeft_setWidth srcoff (by omega) (by omega)).trans ?_
    apply eq_of_toNat_eq
    rw [toNat_field]
    have := srcoff.isLt
    simp only [toNat_ofNat]
    omega
  rw [packMid_lanes, packHiLo_lanes, hmid, hlow, hhigh]
  exact ⟨rfl, rfl⟩

/-- Settles O9: the packets are literals, and the decoder computes. -/
theorem writtenOutPacketsDecode : Obligations.WrittenOutPacketsDecode := by
  unfold Obligations.WrittenOutPacketsDecode
  decide

end Sys2Proof.Machine
end

section
/-!
PROOFS. ENQ (41_queue_controller.md R152 to R155): it raises a condition, or it stores the request in one descriptor or in two and
answers by the budget. What it stores, signals and records is read off `storeOne_eq` once for one store and once for the next.
-/

namespace Sys2Proof.Machine

open Sys2Proof BitVec

/-! ### One store, field by field (R153, R154) -/

section StoreFields

variable (p : Params) (cls : DestClass) (seg : Segment) (step : Half) (s : State)

@[simp] theorem storeOne_cap : (storeOne p cls seg step s).cap = s.cap := by rw [storeOne_eq]
@[simp] theorem storeOne_budget : (storeOne p cls seg step s).budget = s.budget := by rw [storeOne_eq]
@[simp] theorem storeOne_cfg : (storeOne p cls seg step s).cfg = s.cfg := by rw [storeOne_eq]
@[simp] theorem storeOne_held : (storeOne p cls seg step s).held = s.held := by rw [storeOne_eq]
@[simp] theorem storeOne_inputs : (storeOne p cls seg step s).inputs = s.inputs := by rw [storeOne_eq]
@[simp] theorem storeOne_srcMem : (storeOne p cls seg step s).srcMem = s.srcMem := by rw [storeOne_eq]
@[simp] theorem storeOne_qcount : (storeOne p cls seg step s).qcount = s.qcount + 1#16 := by rw [storeOne_eq]
@[simp] theorem storeOne_qbytes : (storeOne p cls seg step s).qbytes = bytesAfter s seg := by rw [storeOne_eq]

@[simp] theorem storeOne_ovfidx :
    (storeOne p cls seg step s).ovfidx = if crossesAfter s seg then s.qcount else s.ovfidx := by rw [storeOne_eq]

@[simp] theorem storeOne_trace : (storeOne p cls seg step s).trace = s.trace ++ storeEvents p s seg := by
  rw [storeOne_eq]

@[simp] theorem storeOne_env :
    (storeOne p cls seg step s).env = if signalsAfter s seg then { s.env with pending := true } else s.env := by
  rw [storeOne_eq]

@[simp] theorem storeOne_slots :
    (storeOne p cls seg step s).slots =
      Slots.write s.slots s.qcount.toNat (packDesc p cls seg.src seg.dst seg.len step) := by rw [storeOne_eq]

@[simp] theorem storeOne_autoflush : (storeOne p cls seg step s).autoflush = s.autoflush := by
  rw [State.autoflush, storeOne_cfg]
  rfl

@[simp] theorem storeOne_ignover : (storeOne p cls seg step s).ignover = s.ignover := by
  rw [State.ignover, storeOne_cfg]
  rfl

/-- A store writes the next free slot and leaves every other alone (R153). -/
theorem storeOne_slot (i : Nat) :
    (storeOne p cls seg step s).slot i =
      if i = s.qcount.toNat then packDesc p cls seg.src seg.dst seg.len step else s.slot i := by
  rw [storeOne_eq]
  by_cases h : i = s.qcount.toNat
  · rw [if_pos h, h]
    exact slot_storeSlot_same s _ _
  · rw [if_neg h]
    exact slot_storeSlot_other s _ h

end StoreFields

/-! ### The conditions of a store as propositions -/

section Conditions

variable (s : State) (seg : Segment)

/-- The byte total after a store, as the rules write it: two bytes for each word (R153). -/
theorem bytesAfter_eq : bytesAfter s seg = s.qbytes + 2#32 * seg.len.setWidth 32 := by
  rw [bytesAfter, shiftLeft_eq_mul_twoPow, BitVec.mul_comm]
  rfl

theorem overAfter_iff :
    overAfter s seg = true ↔ s.budget ≠ 0#32 ∧ s.budget.toNat < (bytesAfter s seg).toNat := by
  simp [overAfter, lt_def]

theorem overflowRecorded_eq_false_iff : s.overflowRecorded = false ↔ s.ovfidx = 0#16 := by
  simp [State.overflowRecorded]

theorem crossesAfter_iff : crossesAfter s seg = true ↔ overAfter s seg = true ∧ s.ovfidx = 0#16 := by
  rw [crossesAfter, Bool.and_eq_true, Bool.not_eq_true', overflowRecorded_eq_false_iff]

theorem signalsAfter_iff : signalsAfter s seg = true ↔ s.autoflush = true ∧ bytesAfter s seg ≠ 0#32 := by
  simp [signalsAfter]

end Conditions

/-! ### ENQ answers a condition, one store or two (R152) -/

/-- The one segment of a request that does not cross a boundary (R120). -/
def wholePart (src : SrcAddr) (dst len : Half) : Segment := { src := src.setWidth 25, dst := dst, len := len }

/-- ENQ's last action after its stores: RESP by the budget (R152). -/
def answerByBudget (s : State) : State := respond (acceptedResp (budgetAccepts s)) s

@[simp] theorem answerByBudget_ovfidx (s : State) : (answerByBudget s).ovfidx = s.ovfidx := rfl
@[simp] theorem answerByBudget_env (s : State) : (answerByBudget s).env = s.env := rfl
@[simp] theorem answerByBudget_slot (s : State) (i : Nat) : (answerByBudget s).slot i = s.slot i := rfl

section Enqueue

variable (p : Params) (cls : DestClass) (src : SrcAddr) (dst len step : Half) (s : State)

/-- A request that does not cross, stored (R153). -/
def storeWhole : State := storeOne p cls (wholePart src dst len) step s

/-- A request that crosses, stored: the high segment first (R152). -/
def storeBoth : State := storeOne p cls (lowPart src dst) step (storeOne p cls (highPart src dst len) step s)

variable {p cls src dst len step s}

theorem exec_enq_of_odd (hodd : srcEven src = false) :
    exec (.enq cls src dst len step) s = .next (raise Config.params .badCommand s) := by
  have harm : exec (.enq cls src dst len step) s = execEnq cls src dst len step s := rfl
  rw [harm, execEnq, srcOdd_eq, hodd, Bool.not_false, if_pos rfl]

theorem enqueue_of_fits (hfits : len.toNat ≤ wordsToBoundary src) (hroom : s.qcount.toNat < s.cap.toNat) :
    enqueue p cls src dst len step s = answerByBudget (storeWhole p cls src dst len step s) := by
  have hfull : s.queueFull = false := decide_eq_false (Nat.not_le.mpr hroom)
  simp only [enqueue, hfull, decompose_of_fits hfits]
  rfl

theorem enqueue_of_crosses (hcross : wordsToBoundary src < len.toNat) (hroom : s.qcount.toNat + 2 ≤ s.cap.toNat) :
    enqueue p cls src dst len step s = answerByBudget (storeBoth p cls src dst len step s) := by
  have hfull : s.queueFull = false := decide_eq_false (by omega)
  have htwo : s.noRoomForTwo = false := decide_eq_false (by omega)
  simp only [enqueue, hfull, htwo, decompose_of_crosses hcross]
  rfl

variable (p cls src dst len step s)

/-- Everything ENQ of a well-formed packet can do (R152). -/
theorem enqueue_cases :
    enqueue p cls src dst len step s = raise p .queueFull s ∨
    (len.toNat ≤ wordsToBoundary src ∧ s.qcount.toNat < s.cap.toNat ∧
      enqueue p cls src dst len step s = answerByBudget (storeWhole p cls src dst len step s)) ∨
    (wordsToBoundary src < len.toNat ∧ s.qcount.toNat + 2 ≤ s.cap.toNat ∧
      enqueue p cls src dst len step s = answerByBudget (storeBoth p cls src dst len step s)) := by
  by_cases hfull : s.cap.toNat ≤ s.qcount.toNat
  · exact .inl (enqueue_of_queueFull p cls dst step (queueFull_iff.mpr hfull))
  by_cases hcross : wordsToBoundary src < len.toNat
  · by_cases htwo : s.cap.toNat < s.qcount.toNat + 2
    · exact .inl (enqueue_of_noRoomForTwo p cls dst step hcross (noRoomForTwo_iff.mpr htwo))
    · exact .inr (.inr ⟨hcross, by omega, enqueue_of_crosses hcross (by omega)⟩)
  · exact .inr (.inl ⟨by omega, by omega, enqueue_of_fits (by omega) (by omega)⟩)

/-- Everything ENQ can do: a condition raised, or a request stored and answered. -/
theorem exec_enq_cases :
    (∃ c : Condition, exec (.enq cls src dst len step) s = .next (raise Config.params c s) ∧
      (c = .badCommand ↔ srcEven src = false)) ∨
    (srcEven src = true ∧ len.toNat ≤ wordsToBoundary src ∧ s.qcount.toNat < s.cap.toNat ∧
      exec (.enq cls src dst len step) s = .next (answerByBudget (storeWhole Config.params cls src dst len step s))) ∨
    (srcEven src = true ∧ wordsToBoundary src < len.toNat ∧ s.qcount.toNat + 2 ≤ s.cap.toNat ∧
      exec (.enq cls src dst len step) s = .next (answerByBudget (storeBoth Config.params cls src dst len step s))) := by
  cases heven : srcEven src with
  | false => exact .inl ⟨.badCommand, exec_enq_of_odd heven, by simp⟩
  | true =>
    rw [exec_enq_of_even cls dst step heven]
    rcases enqueue_cases Config.params cls src dst len step s with h | ⟨hfits, hroom, h⟩ | ⟨hcross, hroom, h⟩
    · exact .inl ⟨.queueFull, by rw [h], by simp⟩
    · exact .inr (.inl ⟨rfl, hfits, hroom, by rw [h]⟩)
    · exact .inr (.inr ⟨rfl, hcross, hroom, by rw [h]⟩)

end Enqueue

/-! ### What ENQ emits -/

/-- The events a store may emit, RESP being `v` in the end: PEND, a DIAG, or RESP of `v`. -/
def IsEnqEvent (v : Word) (e : Event) : Prop := e = .pend ∨ (∃ d, e = .diag d) ∨ e = .resp v

theorem isEnqEvent_of_mem_diagEvents {p : Params} {d : Diag} {v : Word} {e : Event} (he : e ∈ diagEvents p d) :
    IsEnqEvent v e := by
  unfold diagEvents at he
  split at he
  · exact .inr (.inl ⟨d, List.mem_singleton.mp he⟩)
  · cases he

theorem isEnqEvent_of_mem_storeEvents {p : Params} {s : State} {seg : Segment} {v : Word} {e : Event}
    (he : e ∈ storeEvents p s seg) : IsEnqEvent v e := by
  rw [storeEvents, List.mem_append] at he
  rcases he with hpend | hwarn
  · split at hpend
    · exact .inl (List.mem_singleton.mp hpend)
    · cases hpend
  · split at hwarn
    · exact isEnqEvent_of_mem_diagEvents hwarn
    · cases hwarn

/-- ENQ's effect on the world outside: the pending flag at most, and events of its own list (R152). -/
def TalksAsEnq (s t : State) (v : Word) : Prop :=
  t.env = { s.env with pending := t.env.pending } ∧
    ∃ evs : List Event, t.trace = s.trace ++ evs ∧ ∀ e ∈ evs, IsEnqEvent v e

section TalksAsEnq

variable (p : Params) (cls : DestClass) (seg : Segment) (step : Half) {s t : State} {v : Word}

theorem talksAsEnq_storeOne (h : TalksAsEnq s t v) : TalksAsEnq s (storeOne p cls seg step t) v := by
  obtain ⟨henv, evs, htrace, hevs⟩ := h
  refine ⟨?_, evs ++ storeEvents p t seg, by rw [storeOne_trace, htrace, List.append_assoc], ?_⟩
  · rw [storeOne_env]
    split
    · rw [henv]
    · exact henv
  · intro e he
    rcases List.mem_append.mp he with he | he
    · exact hevs e he
    · exact isEnqEvent_of_mem_storeEvents he

theorem talksAsEnq_refl (s : State) (v : Word) : TalksAsEnq s s v := ⟨rfl, [], (List.append_nil _).symm, by simp⟩

theorem talksAsEnq_respond (h : TalksAsEnq s t v) : TalksAsEnq s (respond v t) v := by
  obtain ⟨henv, evs, htrace, hevs⟩ := h
  refine ⟨henv, evs ++ [.resp v], by rw [respond_trace, htrace, List.append_assoc], ?_⟩
  intro e he
  rcases List.mem_append.mp he with he | he
  · exact hevs e he
  · exact .inr (.inr (List.mem_singleton.mp he))

theorem talksAsEnq_raise (c : Condition) (s : State) : TalksAsEnq s (raise p c s) 0#32 := by
  rw [raise, report_eq]
  exact talksAsEnq_respond ⟨rfl, _, rfl, fun e he => isEnqEvent_of_mem_diagEvents he⟩

end TalksAsEnq

/-- Settles O20: every store adds events of ENQ's list and sets the pending flag at most. -/
theorem enqTalksToNoEngine : Obligations.EnqTalksToNoEngine := by
  intro cls src dst len step s t h
  suffices TalksAsEnq s t t.resp from this
  rcases exec_enq_cases cls src dst len step s with ⟨c, he, -⟩ | ⟨-, -, -, he⟩ | ⟨-, -, -, he⟩ <;>
    obtain rfl := Host.Outcome.next.inj (he.symm.trans h)
  · exact talksAsEnq_raise _ c s
  · exact talksAsEnq_respond (talksAsEnq_storeOne _ _ _ _ (talksAsEnq_refl s _))
  · exact talksAsEnq_respond (talksAsEnq_storeOne _ _ _ _ (talksAsEnq_storeOne _ _ _ _ (talksAsEnq_refl s _)))

/-! ### A request that does not cross (R153, R154) -/

theorem answerByBudget_resp (s : State) : (answerByBudget s).resp = if budgetAccepts s then 1#32 else 0#32 := rfl

/-- RESP after a store: 0 exactly over budget under ignore-over-capacity (R154). -/
theorem answerByBudget_storeOne_resp (p : Params) (cls : DestClass) (seg : Segment) (step : Half) (s : State) :
    (overAfter s seg = true ∧ s.ignover = true → (answerByBudget (storeOne p cls seg step s)).resp = 0#32) ∧
      (¬(overAfter s seg = true ∧ s.ignover = true) → (answerByBudget (storeOne p cls seg step s)).resp = 1#32) := by
  rw [answerByBudget_resp, budgetAccepts_storeOne]
  cases overAfter s seg <;> cases s.ignover <;> simp

/-- Settles O18: the fields of the one store, its conditions as the rules write them. -/
theorem enqStoresAWholeRequest : Obligations.EnqStoresAWholeRequest := by
  intro cls src dst len step s heven hfits hroom total tooMuch signals
  have hwords := two_mul_wordsToBoundary heven
  rw [bytesToBoundary_eq] at hwords
  have htotal : bytesAfter s (wholePart src dst len) = total := bytesAfter_eq s _
  have hover : overAfter s (wholePart src dst len) = true ↔ tooMuch := by rw [overAfter_iff, htotal]
  have hcrosses : crossesAfter s (wholePart src dst len) = true ↔ tooMuch ∧ s.ovfidx = 0#16 := by
    rw [crossesAfter_iff, hover]
  have hsignals : signalsAfter s (wholePart src dst len) = true ↔ signals := by rw [signalsAfter_iff, htotal]
  have hresp := answerByBudget_storeOne_resp Config.params cls (wholePart src dst len) step s
  rw [hover] at hresp
  refine ⟨answerByBudget (storeWhole Config.params cls src dst len step s), ?_, ?_, ?_, ?_, ?_, ?_, ?_, ?_, ?_, ?_, hresp.1,
    hresp.2, ?_, ?_, ?_⟩
  · rw [exec_enq_of_even cls dst step heven, enqueue_of_fits (by omega) hroom]
  · simp only [answerByBudget, respond_slot, storeWhole, storeOne_slot, if_pos]
    rfl
  · intro i hi
    simp only [answerByBudget, respond_slot, storeWhole, storeOne_slot]
    exact if_neg (by simpa using hi)
  · simp [answerByBudget, storeWhole]
  · simp [answerByBudget, storeWhole, htotal]
  · simp [answerByBudget, storeWhole, SameSetup]
  · simp [answerByBudget, storeWhole, SameOutside, SameSource]
  · simp [answerByBudget, storeWhole]
  · intro h
    simp [answerByBudget, storeWhole, hcrosses.mpr h]
  · intro h
    simp [answerByBudget, storeWhole, hcrosses.not.mpr h]
  · intro h
    simp [answerByBudget, storeWhole, hsignals.mpr h]
  · intro h
    simp [answerByBudget, storeWhole, hsignals.not.mpr h]
  · refine ⟨if signalsAfter s (wholePart src dst len) then [.pend] else [],
      if crossesAfter s (wholePart src dst len) then diagEvents Config.params (.warnBudget total s.budget) else [], ?_,
      fun h => if_pos (hsignals.mpr h), fun h => if_neg (hsignals.not.mpr h), fun h => if_pos (hcrosses.mpr h),
      fun h => if_neg (hcrosses.not.mpr h)⟩
    simp only [answerByBudget, respond_trace, respond_resp, storeWhole, storeOne_trace, storeEvents, htotal,
      List.append_assoc]

end Sys2Proof.Machine
end

section
/-!
PROOFS. ENQ continued (41_queue_controller.md): a crossing request and its two stores (R155), an ENQ that is refused (R39, R70), and
diagnostics, on which nothing depends (20_memory.md R64).
-/

namespace Sys2Proof.Machine

open Sys2Proof BitVec

/-! ### A crossing request: the second store in terms of the state before the first (R155) -/

section Crossing

variable (p : Params) (cls : DestClass) {src : SrcAddr} (dst : Half) {len : Half} (step : Half) (s : State)

/-- The two segments hold the words of the request (R121). -/
theorem lowPart_add_highPart_len : (lowPart src dst).len.toNat ≤ len.toNat →
    (highPart src dst len).len.toNat + (lowPart src dst).len.toNat = len.toNat := by
  intro h
  rw [highPart, toNat_sub_of_le (le_def.mpr h)]
  omega

/-- The byte total after both stores is that of the whole request (R155). -/
theorem bytesAfter_both (hcross : wordsToBoundary src < len.toNat) :
    bytesAfter (storeOne p cls (highPart src dst len) step s) (lowPart src dst) = s.qbytes + 2#32 * len.setWidth 32 := by
  have hlow := lowPart_len_toNat (dst := dst) hcross
  have hsum := lowPart_add_highPart_len (src := src) (len := len) dst (by omega)
  rw [bytesAfter_eq, storeOne_qbytes, bytesAfter_eq, BitVec.add_assoc]
  congr 1
  apply eq_of_toNat_eq
  simp only [toNat_add, toNat_mul, toNat_setWidth, toNat_ofNat]
  have := len.isLt
  omega

variable (seg seg' : Segment)

/-- After a store no overflow is recorded exactly where none was before and this one did not record a nonzero index (D9). -/
theorem storeOne_ovfidx_eq_zero_iff :
    (storeOne p cls seg step s).ovfidx = 0#16 ↔ s.ovfidx = 0#16 ∧ ¬(overAfter s seg = true ∧ s.qcount ≠ 0#16) := by
  rw [storeOne_ovfidx]
  split
  · next h =>
    obtain ⟨hover, hzero⟩ := (crossesAfter_iff s seg).mp h
    simp [hover, hzero]
  · next h =>
    rw [crossesAfter_iff] at h
    tauto

/-- The second store is the first recorded crossing exactly where the first recorded no nonzero index (R154, R155). -/
theorem crossesAfter_storeOne_iff :
    crossesAfter (storeOne p cls seg step s) seg' = true ↔
      overAfter (storeOne p cls seg step s) seg' = true ∧ s.ovfidx = 0#16 ∧
        ¬(overAfter s seg = true ∧ s.qcount ≠ 0#16) := by
  rw [crossesAfter_iff, storeOne_ovfidx_eq_zero_iff]

/-- The environment after two stores: pending where one of them signals (R153). -/
theorem storeOne_storeOne_env :
    (storeOne p cls seg' step (storeOne p cls seg step s)).env =
      if signalsAfter s seg = true ∨ signalsAfter (storeOne p cls seg step s) seg' = true then
        { s.env with pending := true }
      else s.env := by
  rw [storeOne_env, storeOne_env]
  cases signalsAfter s seg <;> cases signalsAfter (storeOne p cls seg step s) seg' <;> rfl

/-- The recorded index after two stores: the first recorded crossing's, an index of 0 counting as none (R154, D9). -/
theorem storeOne_storeOne_ovfidx :
    (storeOne p cls seg' step (storeOne p cls seg step s)).ovfidx =
      if s.ovfidx ≠ 0#16 then s.ovfidx
      else if overAfter s seg = true ∧ s.qcount ≠ 0#16 then s.qcount
      else if overAfter (storeOne p cls seg step s) seg' = true then s.qcount + 1#16
      else 0#16 := by
  simp only [storeOne_ovfidx _ _ seg', crossesAfter_storeOne_iff, storeOne_qcount]
  rw [storeOne_ovfidx]
  simp only [crossesAfter_iff]
  generalize overAfter (storeOne p cls seg step s) seg' = overBoth
  by_cases hrec : s.ovfidx = 0#16
  · by_cases hfirst : overAfter s seg = true ∧ s.qcount ≠ 0#16
    · simp [hrec, hfirst]
    · cases overBoth <;> simp_all
  · simp [hrec]

/-- The slots after two stores: the two next free ones written, in order (R155). -/
theorem storeOne_storeOne_slot (hroom : s.qcount.toNat + 1 < 2 ^ 16) (i : Nat) :
    (storeOne p cls seg' step (storeOne p cls seg step s)).slot i =
      if i = s.qcount.toNat + 1 then packDesc p cls seg'.src seg'.dst seg'.len step
      else if i = s.qcount.toNat then packDesc p cls seg.src seg.dst seg.len step
      else s.slot i := by
  have hnext : (s.qcount + 1#16).toNat = s.qcount.toNat + 1 := by
    rw [toNat_add, toNat_ofNat]
    omega
  rw [storeOne_slot, storeOne_slot, storeOne_qcount, hnext]

/-- The total is over a configured budget, as the rules write it (R154). -/
abbrev OverBudgetAt (s : State) (total : Word) : Prop := s.budget ≠ 0#32 ∧ s.budget.toNat < total.toNat

/-- OVFIDX after both stores of a crossing request (R155). -/
theorem storeBoth_ovfidx (hcross : wordsToBoundary src < len.toNat) :
    (storeBoth p cls src dst len step s).ovfidx =
      if s.ovfidx ≠ 0#16 then s.ovfidx
      else if OverBudgetAt s (s.qbytes + 2#32 * (highPart src dst len).len.setWidth 32) ∧ s.qcount ≠ 0#16 then s.qcount
      else if OverBudgetAt s (s.qbytes + 2#32 * len.setWidth 32) then s.qcount + 1#16
      else 0#16 := by
  rw [storeBoth, storeOne_storeOne_ovfidx]
  simp only [overAfter_iff, bytesAfter_both p cls dst step s hcross, bytesAfter_eq s, storeOne_budget]

/-- The environment after both stores of a crossing request (R153). -/
theorem storeBoth_env (hcross : wordsToBoundary src < len.toNat) :
    (storeBoth p cls src dst len step s).env =
      if s.autoflush = true ∧ (s.qbytes + 2#32 * (highPart src dst len).len.setWidth 32 ≠ 0#32 ∨
          s.qbytes + 2#32 * len.setWidth 32 ≠ 0#32) then
        { s.env with pending := true }
      else s.env := by
  rw [storeBoth, storeOne_storeOne_env]
  simp only [signalsAfter_iff, bytesAfter_both p cls dst step s hcross, bytesAfter_eq s, storeOne_autoflush, and_or_left]

/-- RESP after both stores of a crossing request: the low segment's result (R155). -/
theorem storeBoth_resp (hcross : wordsToBoundary src < len.toNat) :
    (OverBudgetAt s (s.qbytes + 2#32 * len.setWidth 32) ∧ s.ignover = true →
        (answerByBudget (storeBoth p cls src dst len step s)).resp = 0#32) ∧
      (¬(OverBudgetAt s (s.qbytes + 2#32 * len.setWidth 32) ∧ s.ignover = true) →
        (answerByBudget (storeBoth p cls src dst len step s)).resp = 1#32) := by
  have h := answerByBudget_storeOne_resp p cls (lowPart src dst) step (storeOne p cls (highPart src dst len) step s)
  simp only [overAfter_iff, bytesAfter_both p cls dst step s hcross, storeOne_budget, storeOne_ignover] at h
  exact h

/-- The events of both stores of a crossing request: each its own signal and its own warning (R155). -/
theorem storeBoth_trace (hcross : wordsToBoundary src < len.toNat) :
    ∃ warnHigh warnLow : List Event,
      (storeBoth p cls src dst len step s).trace = s.trace ++
        ((if s.autoflush = true ∧ s.qbytes + 2#32 * (highPart src dst len).len.setWidth 32 ≠ 0#32 then [.pend] else []) ++
          warnHigh ++
          (if s.autoflush = true ∧ s.qbytes + 2#32 * len.setWidth 32 ≠ 0#32 then [.pend] else []) ++ warnLow) ∧
      (warnHigh = if OverBudgetAt s (s.qbytes + 2#32 * (highPart src dst len).len.setWidth 32) ∧ s.ovfidx = 0#16 then
        diagEvents p (.warnBudget (s.qbytes + 2#32 * (highPart src dst len).len.setWidth 32) s.budget) else []) ∧
      (warnLow = if OverBudgetAt s (s.qbytes + 2#32 * len.setWidth 32) ∧ s.ovfidx = 0#16 ∧
          ¬(OverBudgetAt s (s.qbytes + 2#32 * (highPart src dst len).len.setWidth 32) ∧ s.qcount ≠ 0#16) then
        diagEvents p (.warnBudget (s.qbytes + 2#32 * len.setWidth 32) s.budget) else []) := by
  refine ⟨_, _, ?_, rfl, rfl⟩
  rw [storeBoth, storeOne_trace, storeOne_trace, storeEvents, storeEvents]
  simp only [signalsAfter_iff, crossesAfter_storeOne_iff, crossesAfter_iff s, overAfter_iff,
    bytesAfter_both p cls dst step s hcross, bytesAfter_eq s, storeOne_budget, storeOne_autoflush, List.append_assoc]

end Crossing

/-- Settles O19: the two stores of `storeBoth`, the second's conditions in terms of the state before the first. -/
theorem enqStoresACrossingRequestHighFirst : Obligations.EnqStoresACrossingRequestHighFirst := by
  intro cls src dst len step s heven hcrossing hroom
  have hwords := two_mul_wordsToBoundary heven
  rw [bytesToBoundary_eq] at hwords
  have hcross : wordsToBoundary src < len.toNat := by omega
  have hlow := lowPart_len_toNat (dst := dst) hcross
  have hcap := s.cap.isLt
  obtain ⟨t, ht⟩ : ∃ t, t = answerByBudget (storeBoth Config.params cls src dst len step s) := ⟨_, rfl⟩
  have hexec : exec (.enq cls src dst len step) s = .next t := by
    rw [exec_enq_of_even cls dst step heven, enqueue_of_crosses hcross hroom, ht]
  have hslot (i : Nat) : t.slot i = _ :=
    (congrArg (State.slot · i) ht).trans ((answerByBudget_slot _ i).trans
      (storeOne_storeOne_slot Config.params cls step s (highPart src dst len) (lowPart src dst) (by omega) i))
  have hslotHigh := (hslot s.qcount.toNat).trans ((if_neg (by omega)).trans (if_pos rfl))
  have hslotLow := (hslot (s.qcount.toNat + 1)).trans (if_pos rfl)
  have hqbytes : t.qbytes = s.qbytes + 2#32 * len.setWidth 32 := by
    simp [ht, answerByBudget, storeBoth, bytesAfter_both _ _ _ _ _ hcross]
  have hovf := (congrArg State.ovfidx ht).trans
    ((answerByBudget_ovfidx _).trans (storeBoth_ovfidx Config.params cls dst step s hcross))
  have henv := (congrArg State.env ht).trans
    ((answerByBudget_env _).trans (storeBoth_env Config.params cls dst step s hcross))
  have hresp := storeBoth_resp Config.params cls dst step s hcross
  obtain ⟨warnHigh, warnLow, htrace, hwarnHigh, hwarnLow⟩ := storeBoth_trace Config.params cls dst step s hcross
  rw [← ht] at hresp
  refine ⟨lowPart src dst, highPart src dst len, t, decompose_of_crosses hcross, hexec, hslotHigh, hslotLow, ?_, ?_, ?_,
    hqbytes, ?_, ?_, ?_, ?_⟩
  · intro i hi
    simp only [List.mem_cons, List.not_mem_nil, or_false] at hi
    rw [hslot, if_neg fun h => hi (.inr h), if_neg fun h => hi (.inl h)]
  · rw [hslotHigh, hslotLow]
    simp only [packDesc, unpackLen_packLen]
    exact lowPart_add_highPart_len dst (by omega)
  · simp [ht, answerByBudget, storeBoth, BitVec.add_assoc]
  · simp [ht, answerByBudget, storeBoth, SameSetup]
  · simp [ht, answerByBudget, storeBoth, SameOutside, SameSource]
  · simp [ht, answerByBudget, storeBoth]
  · rw [hqbytes]
    refine ⟨fun h => hovf.trans (if_pos h), fun h hover hq => hovf.trans ((if_neg (not_not_intro h)).trans (if_pos ⟨hover, hq⟩)),
      fun h hfirst hover => hovf.trans ((if_neg (not_not_intro h)).trans ((if_neg hfirst).trans (if_pos hover))),
      fun h hfirst hover => hovf.trans ((if_neg (not_not_intro h)).trans ((if_neg hfirst).trans (if_neg hover))),
      hresp.1, hresp.2, fun h => henv.trans (if_pos h), fun h => henv.trans (if_neg h), _, warnHigh, _, warnLow, ?_, rfl, rfl,
      fun h => hwarnHigh.trans (if_pos h), fun h => hwarnHigh.trans (if_neg h), fun h => hwarnLow.trans (if_pos h),
      fun h => hwarnLow.trans (if_neg h)⟩
    rw [ht, answerByBudget, respond_trace, respond_resp, htrace, List.append_assoc]

/-! ### An ENQ that is refused (R39) -/

/-- A raised condition answers RESP 0 and leaves the queue and the outside alone (R250). -/
theorem raise_frame (p : Params) (c : Condition) (s : State) :
    (raise p c s).resp = 0#32 ∧ SameQueue s (raise p c s) ∧ SameOutside s (raise p c s) := by
  rw [raise_eq]
  exact ⟨rfl, ⟨⟨rfl, rfl, rfl⟩, ⟨rfl, rfl, rfl⟩, fun _ _ => rfl⟩, fun _ => rfl, rfl⟩

/-- Settles O46: with no capacity there is room for no store, so ENQ can only raise a condition. -/
theorem resetFailsClosed : Obligations.ResetFailsClosed := by
  refine ⟨rfl, rfl, rfl, rfl, rfl, rfl, rfl, ?_⟩
  intro cls src dst len step s hcap
  rcases exec_enq_cases cls src dst len step s with ⟨c, hexec, -⟩ | ⟨-, -, hroom, -⟩ | ⟨-, -, hroom, -⟩
  · exact ⟨_, hexec, raise_frame _ c s⟩
  · simp [hcap] at hroom
  · simp [hcap] at hroom

/-! ### Diagnostics are advisory (R64) -/

/-- Two states that differ in the trace at most, and there in its DIAG events at most. -/
def AgreeUpToDiag (t u : State) : Prop := u = { t with trace := u.trace } ∧ withoutDiag u.trace = withoutDiag t.trace

section Advisory

variable {p : Params} {b : Bool} {t u : State}

theorem withoutDiag_append (evs evs' : List Event) : withoutDiag (evs ++ evs') = withoutDiag evs ++ withoutDiag evs' :=
  List.filter_append ..

theorem withoutDiag_diagEvents (p : Params) (d : Diag) : withoutDiag (diagEvents p d) = [] := by
  unfold diagEvents
  split <;> rfl

/-- Events appended to two states that agree, the same but for the diagnostics. -/
theorem withoutDiag_append_congr {evs evs' new new' : List Event} (h : withoutDiag evs' = withoutDiag evs)
    (hnew : withoutDiag new' = withoutDiag new) : withoutDiag (evs' ++ new') = withoutDiag (evs ++ new) := by
  rw [withoutDiag_append, withoutDiag_append, h, hnew]

theorem agreeUpToDiag_respond (v : Word) (h : AgreeUpToDiag t u) : AgreeUpToDiag (respond v t) (respond v u) := by
  obtain ⟨hu, htrace⟩ := h
  refine ⟨?_, withoutDiag_append_congr htrace rfl⟩
  rw [hu]
  rfl

/-- The events of a store differ in the warning only (R153, R154). -/
theorem withoutDiag_storeEvents (p p' : Params) (s : State) (seg : Segment) :
    withoutDiag (storeEvents p' s seg) = withoutDiag (storeEvents p s seg) := by
  have hwarn (p : Params) : withoutDiag
      (if crossesAfter s seg then diagEvents p (.warnBudget (bytesAfter s seg) s.budget) else []) = [] := by
    split
    · exact withoutDiag_diagEvents p _
    · rfl
  rw [storeEvents, storeEvents]
  exact withoutDiag_append_congr rfl ((hwarn p').trans (hwarn p).symm)

theorem agreeUpToDiag_storeOne (cls : DestClass) (seg : Segment) (step : Half) (h : AgreeUpToDiag t u) :
    AgreeUpToDiag (storeOne p cls seg step t) (storeOne { p with diagnostics := b } cls seg step u) := by
  obtain ⟨hu, htrace⟩ := h
  have hevents : storeEvents { p with diagnostics := b } u seg = storeEvents { p with diagnostics := b } t seg := by
    rw [hu]
    rfl
  constructor
  · rw [storeOne_eq, storeOne_eq, hu]
    rfl
  · rw [storeOne_trace, storeOne_trace, hevents]
    exact withoutDiag_append_congr htrace (withoutDiag_storeEvents ..)

theorem agreeUpToDiag_answerByBudget (h : AgreeUpToDiag t u) :
    AgreeUpToDiag (answerByBudget t) (answerByBudget u) := by
  have haccepts : budgetAccepts u = budgetAccepts t := by
    rw [h.1]
    rfl
  rw [answerByBudget, answerByBudget, haccepts]
  exact agreeUpToDiag_respond _ h

theorem agreeUpToDiag_raise (p : Params) (b : Bool) (c : Condition) (s : State) :
    AgreeUpToDiag (raise p c s) (raise { p with diagnostics := b } c s) := by
  rw [raise_eq, raise_eq]
  refine ⟨rfl, withoutDiag_append_congr rfl (withoutDiag_append_congr ?_ rfl)⟩
  rw [withoutDiag_diagEvents, withoutDiag_diagEvents]

end Advisory

/-- ENQ raises the same condition, or makes the same stores, whether diagnostics are emitted or not. -/
theorem agreeUpToDiag_enqueue (p : Params) (b : Bool) (cls : DestClass) (src : SrcAddr) (dst len step : Half) (s : State) :
    AgreeUpToDiag (enqueue p cls src dst len step s) (enqueue { p with diagnostics := b } cls src dst len step s) := by
  unfold enqueue
  split
  · exact agreeUpToDiag_raise p b _ s
  · split
    · split
      · exact agreeUpToDiag_raise p b _ s
      · exact agreeUpToDiag_answerByBudget
          (agreeUpToDiag_storeOne cls _ step (agreeUpToDiag_storeOne cls _ step ⟨rfl, rfl⟩))
    · exact agreeUpToDiag_answerByBudget (agreeUpToDiag_storeOne cls _ step ⟨rfl, rfl⟩)

/-- Settles O54: a store and an answer keep two states that agree up to diagnostics in agreement, and a raised condition begins
one. -/
theorem diagnosticsAreAdvisory : Obligations.DiagnosticsAreAdvisory :=
  fun p b s => ⟨fun cls src dst len step => agreeUpToDiag_enqueue p b cls src dst len step s,
    fun c => agreeUpToDiag_raise p b c s⟩

end Sys2Proof.Machine
end

section
/-!
PROOFS. The direct transfers and the copier (43_direct_transfer.md, 44_software_fallback.md): the exact events, and what is left of the
engine, the bus and the auto-increment, of XFER, FILL, COPY and SWCOPY, where their Halts return and where one does not.
-/

namespace Sys2Proof.Machine

open Sys2Proof BitVec

/-! ### What a conversation with the collaborators leaves alone -/

/-- BTQC's registers but RESP, its slots and source memory are as before. -/
def SameStores (s t : State) : Prop :=
  t = { s with resp := t.resp, held := t.held, inputs := t.inputs, trace := t.trace, env := t.env }

section SameStores

variable {s t u : State}

theorem SameStores.sameQueue (h : SameStores s t) : SameQueue s t := by
  rw [h]
  exact ⟨⟨rfl, rfl, rfl⟩, ⟨rfl, rfl, rfl⟩, fun _ _ => rfl⟩

theorem SameStores.sameSource (h : SameStores s t) : SameSource s t := by
  rw [h]
  exact fun _ => rfl

theorem SameStores.trans (h : SameStores s t) (h' : SameStores t u) : SameStores s u := by
  rw [SameStores, h', h]

/-- A command that talked and answered. -/
theorem sameStores_respond_talked (s : State) (evs : List Event) (v : Env) (w : Word) :
    SameStores s (respond w (s.talked evs v)) := rfl

/-- A command that talked and is held. -/
theorem sameStores_held_talked (s : State) (evs : List Event) (v : Env) (h : Option Held) :
    SameStores s { s.talked evs v with held := h } := rfl

end SameStores

/-! ### What triggers make of the engine (log 3, log 16) -/

section Triggered

variable {a b c d : Nat} {e e' e'' : Env}

theorem triggered_zero (hengine : e'.engine = e.engine) (hafter : e'.afterTrigger = e.afterTrigger)
    (hrel : e'.releases = e.releases) : Triggered 0 0 e e' :=
  ⟨hengine, hafter, by simp [hrel]⟩

theorem triggered_one (hengine : e'.engine = e.afterNextTrigger) (hafter : e'.afterTrigger = e.afterTrigger.tail)
    (hrel : e'.releases = if e.busTaken then e.releases else e.releases.tail) : Triggered 1 1 e e' :=
  ⟨hengine, by simp [hafter], by simp [hrel]⟩

/-- Triggers in a row, the bus given back in between. -/
theorem Triggered.trans (h : Triggered a b e e') (h' : Triggered c d e' e'') (hbus : e'.busTaken = e.busTaken) :
    Triggered (a + c) (b + d) e e'' := by
  obtain ⟨hengine, hafter, hrel⟩ := h
  obtain ⟨hengine', hafter', hrel'⟩ := h'
  refine ⟨?_, by rw [hafter', hafter, List.drop_drop], ?_⟩
  · rw [hengine', hengine, hafter, List.drop_drop]
    cases c with
    | zero => simp
    | succ c => simp
  · rw [hrel', hbus, hrel]
    cases e.busTaken <;> simp

/-- One segment of an XFER is one trigger and one Halt, or with the copier none. -/
theorem triggered_afterSegment (p : Params) (seg : Segment) (eff : Half) (e : Env) :
    Triggered (hardwareTransfers p 1) (hardwareTransfers p 1) e (e.afterSegment p seg eff) := by
  cases hx : p.hwXfer <;> simp only [hardwareTransfers, Env.afterSegment, hx]
  · exact triggered_one rfl rfl rfl
  · exact triggered_zero rfl rfl rfl

theorem hardwareTransfers_add (p : Params) (m n : Nat) :
    hardwareTransfers p (m + n) = hardwareTransfers p m + hardwareTransfers p n := by
  cases hx : p.hwXfer <;> simp only [hardwareTransfers, hx]

/-- The Halts of a crossing XFER: the high segment's, and then the low segment's. -/
theorem HaltsReturn.ofBothSegments {p : Params} (h : HaltsReturn e (hardwareTransfers p 2)) :
    HaltsReturn e (hardwareTransfers p 1) ∧
      ∀ (seg : Segment) (eff : Half), HaltsReturn (e.afterSegment p seg eff) (hardwareTransfers p 1) := by
  cases hx : p.hwXfer <;> simp only [hardwareTransfers, Env.afterSegment, hx] at h ⊢
  · exact ⟨h.first, fun seg eff => HaltsReturn.afterTransfer (e := { e with autoStep := eff }) h p _⟩
  · exact ⟨h, fun _ _ => haltsReturn_zero _⟩

end Triggered

/-! ### The auto-increment a transfer leaves (R281) -/

/-- A one-byte step does not carry out of its lane (R82). -/
theorem stepLaneIntact_packMid (src : SegAddr) {step : Half} (h : step.toNat ≤ 0xFF) :
    stepLaneIntact (packMid src step) = true := by
  have hlane : (packMid src step).extractLsb' 8 8 = 0x8F#8 := by
    apply eq_of_toNat_eq
    rw [toNat_field, packMid_toNat]
    simp only [toNat_ofNat]
    omega
  rw [stepLaneIntact, hlane]
  rfl

theorem unpackStep_packMid_of_byte (src : SegAddr) {step : Half} (h : step.toNat ≤ 0xFF) :
    unpackStep (packMid src step) = step := by
  rw [unpackStep_packMid]
  apply eq_of_toNat_eq
  rw [toNat_setWidth, toNat_field]
  omega

/-- What a W2 of a one-byte step does to the auto-increment: R59 allows two answers. -/
theorem stepAfterW2_of_byte (p : Params) (src : SegAddr) {step : Half} (old : Half) (h : step.toNat ≤ 0xFF) :
    stepAfterW2 p (packMid src step) old = if p.stepTracksW2 then step else old := by
  rw [stepAfterW2, stepLaneIntact_packMid src h, unpackStep_packMid_of_byte src h, if_pos rfl]

/-- W2 of a one-byte step leaves the auto-increment at that step, whichever R59 allows. -/
theorem stepAfterW2_packMid (p : Params) (src : SegAddr) {step : Half} (h : step.toNat ≤ 0xFF) :
    stepAfterW2 p (packMid src step) step = step := by
  rw [stepAfterW2_of_byte p src step h, ite_self]

/-- The rule for the auto-increment `new` after a direct operation with step operand `stp`, `old` before it (R281, R202 case 2). -/
def StepLeft (stp old new : Half) : Prop :=
  (stp.toNat ≤ 0xFF → new = stp) ∧ (stp = 0xFFFF#16 → old.toNat ≤ 0xFF → new = old)

section StepLeft

variable {stp old new mid : Half}

/-- The rule, from its effective step: a one-byte effective step is the one left. -/
theorem stepLeft_of_effStep (s : State) (h : (effStep stp s).toNat ≤ 0xFF → new = effStep stp s) :
    StepLeft stp s.env.autoStep new := by
  rw [effStep_eq] at h
  constructor
  · intro hle
    have hne : stp ≠ 0xFFFF#16 := by
      rintro rfl
      simp at hle
    rw [if_neg hne] at h
    exact h hle
  · rintro rfl hle
    exact h hle

/-- An operation under the sentinel, and then one with the step operand. -/
theorem StepLeft.trans (h : StepLeft 0xFFFF#16 old mid) (h' : StepLeft stp mid new) : StepLeft stp old new := by
  refine ⟨h'.1, fun hs hle => ?_⟩
  have hmid := h.2 rfl hle
  exact (h'.2 hs (hmid ▸ hle)).trans hmid

theorem stepLeft_afterSegment (p : Params) (seg : Segment) (stp : Half) (s : State) :
    StepLeft stp s.env.autoStep (s.env.afterSegment p seg (effStep stp s)).autoStep := by
  refine stepLeft_of_effStep s fun hle => ?_
  cases hx : p.hwXfer <;> simp only [Env.afterSegment, hx]
  exact stepAfterW2_packMid p seg.src hle

end StepLeft

/-! ### One segment of an XFER and its wait (R201) -/

section Segment

variable (p : Params) (cls : DestClass) (seg : Segment) (step : Half) (after : State → State) {s : State} {h : Held}

theorem waitIdle_issueSegment_eq (hi : s.env.engine = .idle) (hret : HaltsReturn s.env (hardwareTransfers p 1)) :
    waitIdle h (issueSegment p cls seg step after) s =
      after (s.talked ([.wait] ++ segmentEvents p s.srcMem s.env.busTaken s.env.autoStep cls seg step)
        (s.env.afterSegment p seg (effStep step s))) := by
  rw [waitIdle_of_idle _ _ hi, issueSegment_eq, talked_talked]
  · rfl
  · exact hret

/-- With hardware transfers the events of a segment before its `HALT` are the step's, the three words and the question of the bus. -/
theorem beforeHalt_segmentEvents (hx : p.hwXfer = .enabled) (m : Memory) (wasTaken : Bool) (current : Half) :
    beforeHalt (segmentEvents p m wasTaken current cls seg step) =
      stepEvents current step ++
        [.cw32 (packLen seg.len), .cw32 (packMid seg.src (if step = 0xFFFF#16 then current else step)),
          .cw32 (packHiLo seg.src), .taken wasTaken] := by
  simp only [segmentEvents, hx, beforeHalt, perTriggerEvents, packDesc]
  unfold stepEvents
  split <;> simp

/-- A segment whose Halt never returns: its events up to there, and an environment that differs in the auto-increment at most, the
engine being idle (U13). -/
theorem waitIdle_issueSegment_of_never (hi : s.env.engine = .idle) (hx : p.hwXfer = .enabled) (hnever : ¬HaltsReturn s.env 1) :
    ∃ v : Half, waitIdle h (issueSegment p cls seg step after) s =
      State.hungInHalt
        (s.talked ([.wait] ++ beforeHalt (segmentEvents p s.srcMem false s.env.autoStep cls seg step))
          { s.env with autoStep := v }) := by
  have hbus : s.env.busTaken = false := by simpa using fun hb => hnever (.inl hb)
  refine ⟨stepAfterW2 p (packMid seg.src (effStep step s)) (effStep step s), ?_⟩
  rw [waitIdle_of_idle _ _ hi, issueSegment_of_never p (s.talked [.wait] s.env) after cls seg step hx hnever,
    beforeHalt_segmentEvents p cls seg step hx,
    hungTransfer, talked_talked, talked_talked]
  simp only [talked_env, hbus, hi, bne_self_eq_false, Bool.or_false]
  rfl

/-- A segment that does not leave the command held has passed its wait, and its Halt has returned. -/
theorem returns_of_issueSegment_ended (hend : (waitIdle h (issueSegment p cls seg step after) s).held = none) :
    s.env.engine = .idle ∧ HaltsReturn s.env (hardwareTransfers p 1) := by
  by_cases hi : s.env.engine = .idle
  · refine ⟨hi, ?_⟩
    by_contra hnever
    cases hx : p.hwXfer <;> simp only [hardwareTransfers, hx] at hnever
    · obtain ⟨v, hv⟩ := waitIdle_issueSegment_of_never (h := h) p cls seg step after hi hx hnever
      rw [hv] at hend
      cases hend
    · exact hnever (haltsReturn_zero _)
  · rw [waitIdle_of_busy _ _ hi] at hend
    cases hend

end Segment

/-! ### XFER (R200) -/

section Xfer

variable {cls : DestClass} {src : SrcAddr} {dst len step : Half} {s : State}

theorem exec_xfer_of_odd (hodd : srcEven src = false) :
    exec (.xfer cls src dst len step) s = .next (raise Config.params .badCommand s) := by
  have harm : exec (.xfer cls src dst len step) s = execXfer cls src dst len step s := rfl
  rw [harm, execXfer, srcOdd_eq, hodd, Bool.not_false, if_pos rfl]

theorem exec_xfer_of_even (heven : srcEven src = true) :
    exec (.xfer cls src dst len step) s = .next (transferNow Config.params cls src dst len step s) := by
  have harm : exec (.xfer cls src dst len step) s = execXfer cls src dst len step s := rfl
  rw [harm, execXfer, srcOdd_eq, heven, Bool.not_true, if_neg Bool.false_ne_true]

theorem transferNow_of_fits (p : Params) (hfits : len.toNat ≤ wordsToBoundary src) :
    transferNow p cls src dst len step s =
      waitIdle (.start (.xfer cls src dst len step)) (issueSegment p cls (wholePart src dst len) step (respond 1#32)) s := by
  simp only [transferNow, decompose_of_fits hfits]
  rfl

theorem transferNow_of_crosses (p : Params) (hcross : wordsToBoundary src < len.toNat) :
    transferNow p cls src dst len step s =
      waitIdle (.start (.xfer cls src dst len step))
        (issueSegment p cls (highPart src dst len) 0xFFFF#16 (transferLow p cls (lowPart src dst) step)) s := by
  simp only [transferNow, decompose_of_crosses hcross]
  rfl

theorem transferLow_eq (p : Params) (low : Segment) :
    transferLow p cls low step s =
      waitIdle (.lowSegment cls low step) (issueSegment p cls low step (respond 1#32)) s := rfl

/-- A held low segment goes on once the engine is idle (R58). -/
theorem step_of_lowSegment {low : Segment} (hheld : s.held = some (.lowSegment cls low step)) (hi : s.env.engine = .idle) :
    Sys2Proof.Machine.step s = .next (transferLow Config.params cls low step { s with held := none }) := by
  simp only [Sys2Proof.Machine.step, hheld, heldTurn, hi, if_pos, resumeHeld]

/-- The boundary in the obligations' words. -/
theorem fits_of_even (heven : srcEven src = true) (h : 2 * len.toNat ≤ 0x20000 - src.toNat % 0x20000) :
    len.toNat ≤ wordsToBoundary src := by
  have hwords := two_mul_wordsToBoundary heven
  rw [bytesToBoundary_eq] at hwords
  omega

theorem crosses_of_even (heven : srcEven src = true) (h : 0x20000 - src.toNat % 0x20000 < 2 * len.toNat) :
    wordsToBoundary src < len.toNat := by
  have hwords := two_mul_wordsToBoundary heven
  rw [bytesToBoundary_eq] at hwords
  omega

end Xfer

/-- Settles O31: the one segment and its wait, then RESP. -/
theorem xferIssuesAWholeRequest : Obligations.XferIssuesAWholeRequest := by
  intro cls src dst len step s heven hfits hi hret
  refine ⟨_, (exec_xfer_of_even heven).trans (congrArg _ ((transferNow_of_fits _ (fits_of_even heven hfits)).trans
    (waitIdle_issueSegment_eq _ _ _ _ _ hi hret))), ?_, rfl, ?_, ?_, rfl, ?_, ?_, ?_⟩
  · rw [respond_trace, talked_trace, List.append_assoc]
    rfl
  · exact (sameStores_respond_talked s _ _ _).sameQueue
  · exact ⟨(sameStores_respond_talked s _ _ _).sameSource, rfl⟩
  · exact afterSegment_busTaken ..
  · exact afterSegment_pending ..
  · exact triggered_afterSegment ..

/-- A crossing XFER once its high segment is out: the step left alone (R201). -/
def State.afterHigh (p : Params) (cls : DestClass) (src : SrcAddr) (dst len : Half) (s : State) : State :=
  s.talked ([.wait] ++ segmentEvents p s.srcMem s.env.busTaken s.env.autoStep cls (highPart src dst len) 0xFFFF#16)
    (s.env.afterSegment p (highPart src dst len) s.env.autoStep)

section AfterHigh

variable (p : Params) (cls : DestClass) (src : SrcAddr) (dst len step : Half) (s : State)

@[simp] theorem afterHigh_env :
    (s.afterHigh p cls src dst len).env = s.env.afterSegment p (highPart src dst len) s.env.autoStep := rfl

@[simp] theorem afterHigh_trace :
    (s.afterHigh p cls src dst len).trace = s.trace ++
      ([.wait] ++ segmentEvents p s.srcMem s.env.busTaken s.env.autoStep cls (highPart src dst len) 0xFFFF#16) := rfl

theorem sameStores_afterHigh : SameStores s (s.afterHigh p cls src dst len) := rfl

/-- The engine after the high segment: triggered, or with the copier as it was. -/
theorem afterHigh_engine :
    (s.afterHigh p cls src dst len).env.engine =
      match p.hwXfer with
      | .enabled => s.env.afterNextTrigger
      | .disabled => s.env.engine := by
  rw [afterHigh_env, Env.afterSegment]
  cases p.hwXfer <;> rfl

variable {p cls src dst len step s}

theorem transferNow_of_high_returns (hcross : wordsToBoundary src < len.toNat) (hi : s.env.engine = .idle)
    (hret : HaltsReturn s.env (hardwareTransfers p 1)) :
    transferNow p cls src dst len step s = transferLow p cls (lowPart src dst) step (s.afterHigh p cls src dst len) := by
  rw [transferNow_of_crosses p hcross, waitIdle_issueSegment_eq _ _ _ _ _ hi hret]
  rfl

/-- A crossing XFER whose segments both go out. -/
theorem transferNow_of_both_return (hcross : wordsToBoundary src < len.toNat) (hi : s.env.engine = .idle)
    (hnext : (s.afterHigh p cls src dst len).env.engine = .idle) (hret : HaltsReturn s.env (hardwareTransfers p 2)) :
    let mid := s.afterHigh p cls src dst len
    transferNow p cls src dst len step s =
      respond 1#32
        (mid.talked ([.wait] ++ segmentEvents p s.srcMem s.env.busTaken mid.env.autoStep cls (lowPart src dst) step)
          (mid.env.afterSegment p (lowPart src dst) (effStep step mid))) := by
  intro mid
  obtain ⟨hfirst, hsecond⟩ := hret.ofBothSegments
  have hbus : mid.env.busTaken = s.env.busTaken := afterSegment_busTaken ..
  rw [transferNow_of_high_returns hcross hi hfirst, transferLow_eq, waitIdle_issueSegment_eq _ _ _ _ _ hnext (hsecond _ _),
    hbus]
  rfl

end AfterHigh

/-- What the obligations say of the low segment's end, after the high one in the same go. -/
theorem transferNow_of_both_return_spec {p : Params} {cls : DestClass} {src : SrcAddr} {dst len step : Half} {s t : State}
    (hcross : wordsToBoundary src < len.toNat) (hi : s.env.engine = .idle)
    (hnext : (s.afterHigh p cls src dst len).env.engine = .idle) (hret : HaltsReturn s.env (hardwareTransfers p 2))
    (ht : t = transferNow p cls src dst len step s) :
    t.trace = s.trace ++ ([.wait] ++
        segmentEvents p s.srcMem s.env.busTaken s.env.autoStep cls (highPart src dst len) 0xFFFF#16 ++ [.wait] ++
        segmentEvents p s.srcMem s.env.busTaken (s.afterHigh p cls src dst len).env.autoStep cls (lowPart src dst) step ++
        [.resp 1#32]) ∧
      t.resp = 1#32 ∧ SameQueue s t ∧ SameOutside s t ∧ t.held = s.held ∧ t.env.busTaken = s.env.busTaken ∧
      t.env.pending = s.env.pending ∧ Triggered (hardwareTransfers p 2) (hardwareTransfers p 2) s.env t.env := by
  have hsame := (sameStores_afterHigh p cls src dst len s).trans (sameStores_respond_talked _
    ([.wait] ++ segmentEvents p s.srcMem s.env.busTaken (s.afterHigh p cls src dst len).env.autoStep cls (lowPart src dst) step)
    ((s.afterHigh p cls src dst len).env.afterSegment p (lowPart src dst) (effStep step (s.afterHigh p cls src dst len)))
    1#32)
  rw [ht, transferNow_of_both_return hcross hi hnext hret]
  refine ⟨?_, rfl, hsame.sameQueue, ⟨hsame.sameSource, rfl⟩, rfl, ?_, ?_, ?_⟩
  · simp only [respond_trace, talked_trace, afterHigh_trace, List.append_assoc]
  · exact (afterSegment_busTaken ..).trans (afterSegment_busTaken ..)
  · exact (afterSegment_pending ..).trans (afterSegment_pending ..)
  · rw [show 2 = 1 + 1 from rfl, hardwareTransfers_add]
    exact (triggered_afterSegment ..).trans (triggered_afterSegment ..) (afterSegment_busTaken ..)

/-- Settles O32: the engine is idle at the second wait too, so both segments go out. -/
theorem xferIssuesACrossingRequestHighFirst : Obligations.XferIssuesACrossingRequestHighFirst := by
  intro cls src dst len step s heven hcrossing hi hnext hret
  have hcross := crosses_of_even heven hcrossing
  have hmid : (s.afterHigh Config.params cls src dst len).env.engine = .idle := by
    rw [afterHigh_engine]
    cases hx : Config.params.hwXfer
    · exact hnext hx
    · exact hi
  obtain ⟨htrace, hrest⟩ := transferNow_of_both_return_spec (step := step) hcross hi hmid hret rfl
  refine ⟨lowPart src dst, highPart src dst len, _, decompose_of_crosses hcross, exec_xfer_of_even heven, ?_, hrest⟩
  intro between
  have hbetween : (s.afterHigh Config.params cls src dst len).env.autoStep = between := by
    rw [afterHigh_env]
    cases hx : Config.params.hwXfer <;> simp only [between, Env.afterSegment, hx]
    rfl
  rw [htrace, hbetween]

/-- Settles O33: with hardware transfers the high segment's trigger leaves the engine busy at the second wait; the copier starts no
engine, and both segments go out. -/
theorem xferIsHeldBetweenItsSegments : Obligations.XferIsHeldBetweenItsSegments := by
  intro cls src dst len step s heven hcrossing hi hnext hret
  have hcross := crosses_of_even heven hcrossing
  have hengine := afterHigh_engine Config.params cls src dst len s
  cases hx : Config.params.hwXfer with
  | enabled =>
    rw [hx] at hengine
    have heq : transferNow Config.params cls src dst len step s =
        { s.afterHigh Config.params cls src dst len with held := some (.lowSegment cls (lowPart src dst) step) } := by
      rw [transferNow_of_high_returns hcross hi hret, transferLow_eq, waitIdle_of_busy _ _ (hengine ▸ hnext)]
    refine ⟨lowPart src dst, highPart src dst len, _, decompose_of_crosses hcross,
      (exec_xfer_of_even heven).trans (congrArg _ heq), (sameStores_held_talked s _ _ _).sameQueue,
      ⟨(sameStores_held_talked s _ _ _).sameSource, rfl⟩, afterSegment_busTaken .., afterSegment_pending ..,
      triggered_afterSegment .., rfl, rfl, rfl⟩
  | disabled =>
    rw [hx] at hengine
    have hzero : ∀ n, hardwareTransfers Config.params n = 0 := fun n => by simp only [hardwareTransfers, hx]
    have hmid : (s.afterHigh Config.params cls src dst len).env = s.env := by
      rw [afterHigh_env]
      simp only [Env.afterSegment, hx]
    obtain ⟨htrace, hresp, hqueue, hout, hheld, hbus, hpending, htriggered⟩ :=
      transferNow_of_both_return_spec (step := step) (cls := cls) hcross hi (hengine.trans hi)
        (by rw [hzero]; exact haltsReturn_zero _) rfl
    rw [hmid] at htrace
    rw [hzero] at htriggered
    exact ⟨lowPart src dst, highPart src dst len, _, decompose_of_crosses hcross, exec_xfer_of_even heven, hqueue, hout, hbus,
      hpending, by rw [hzero]; exact htriggered, hheld, hresp, htrace⟩

/-! ### XFER in a Halt that never returns (U13) -/

/-- A segment's Halt that never returns, as the obligations put it. -/
theorem hungInHalt_issueSegment {p : Params} {cls : DestClass} {seg : Segment} {step : Half} {after : State → State} {s : State}
    {h : Held} (hi : s.env.engine = .idle) (hx : p.hwXfer = .enabled) (hnever : ¬HaltsReturn s.env 1) :
    HungInHalt s (waitIdle h (issueSegment p cls seg step after) s)
      ([.wait] ++ beforeHalt (segmentEvents p s.srcMem false s.env.autoStep cls seg step)) := by
  obtain ⟨v, hv⟩ := waitIdle_issueSegment_of_never (h := h) p cls seg step after hi hx hnever
  rw [hv]
  exact hungInHalt_spec s _ rfl

/-- A command that talked and then hung has hung. -/
theorem HungInHalt.of_talked {s t : State} {evs evs' : List Event} {v : Env} (h : HungInHalt (s.talked evs v) t evs')
    (hpending : v.pending = s.env.pending) : HungInHalt s t (evs ++ evs') := by
  obtain ⟨hheld, htrace, hresp, hbus, hpend, hqueue, hout⟩ := h
  exact ⟨hheld, by rw [htrace, talked_trace, List.append_assoc, List.append_assoc], hresp, hbus, hpend.trans hpending, hqueue, hout⟩

/-- A command that went on from a hold and hung has hung. -/
theorem HungInHalt.of_resumed {s t : State} {evs : List Event} {h : Option Held}
    (ht : HungInHalt { s with held := h } t evs) : HungInHalt s t evs := ht

/-- The low segment's Halt that never returns, reached in the same go as the high one's that does. -/
theorem hungInHalt_transferLow {p : Params} {cls : DestClass} {src : SrcAddr} {dst len step : Half} {s : State}
    (hx : p.hwXfer = .enabled) (hnext : (s.afterHigh p cls src dst len).env.engine = .idle)
    (hnever : ¬HaltsReturn (s.afterHigh p cls src dst len).env 1) :
    HungInHalt s (transferLow p cls (lowPart src dst) step (s.afterHigh p cls src dst len))
      ([.wait] ++ segmentEvents p s.srcMem s.env.busTaken s.env.autoStep cls (highPart src dst len) 0xFFFF#16 ++ ([.wait] ++
        beforeHalt (segmentEvents p s.srcMem false (s.afterHigh p cls src dst len).env.autoStep cls (lowPart src dst) step))) :=
  HungInHalt.of_talked (hungInHalt_issueSegment (s := s.afterHigh p cls src dst len) hnext hx hnever) (afterSegment_pending ..)

/-- With hardware transfers a first Halt that returns and a second that does not leave one that does not. -/
theorem not_haltsReturn_afterTransfer {e : Env} (p : Params) (w2 : Word) (hfirst : HaltsReturn e 1) (hsecond : ¬HaltsReturn e 2) :
    ¬HaltsReturn (e.afterTransfer p w2) 1 := by
  intro h
  have hbus : e.busTaken = false := by simpa using fun hb => hsecond (.inl hb)
  refine hsecond (.inr fun r hr => ?_)
  have hrel := hfirst.resolve_left (by simp [hbus])
  have hrel' := h.resolve_left (by simp [hbus])
  rw [afterTransfer_releases, hbus] at hrel'
  cases hrs : e.releases with
  | nil => simp [hrs] at hr
  | cons r' rs =>
    rw [hrs] at hr hrel hrel'
    rcases List.mem_cons.mp hr with rfl | hr
    · exact hrel r (by simp)
    · exact hrel' r hr

/-- A segment by the copier ends the command, whatever the coprocessor would answer. -/
theorem issueLast_of_copier {p : Params} (hx : p.hwXfer = .disabled) {cls : DestClass} {seg : Segment} {step : Half} {s : State}
    {h : Held} (hi : s.env.engine = .idle) :
    (waitIdle h (issueSegment p cls seg step (respond 1#32)) s).held = s.held ∧
      (waitIdle h (issueSegment p cls seg step (respond 1#32)) s).resp = 1#32 := by
  have hret : HaltsReturn s.env (hardwareTransfers p 1) := by
    simp only [hardwareTransfers, hx]
    exact haltsReturn_zero _
  rw [waitIdle_issueSegment_eq _ _ _ _ _ hi hret]
  exact ⟨rfl, rfl⟩

/-- The copier halts nobody, so XFER by the copier ends. -/
theorem transferNow_of_copier {p : Params} (hx : p.hwXfer = .disabled) (cls : DestClass) (src : SrcAddr) (dst len step : Half)
    {s : State} (hi : s.env.engine = .idle) :
    (transferNow p cls src dst len step s).held = s.held ∧ (transferNow p cls src dst len step s).resp = 1#32 := by
  by_cases hcross : wordsToBoundary src < len.toNat
  · have hmid : (s.afterHigh p cls src dst len).env.engine = .idle := by
      rw [afterHigh_engine, hx]
      exact hi
    have hret : HaltsReturn s.env (hardwareTransfers p 2) := by
      simp only [hardwareTransfers, hx]
      exact haltsReturn_zero _
    obtain ⟨-, hresp, -, -, hheld, -⟩ := transferNow_of_both_return_spec (step := step) hcross hi hmid hret rfl
    exact ⟨hheld, hresp⟩
  · rw [transferNow_of_fits p (by omega)]
    exact issueLast_of_copier hx hi

/-- Settles O35: each of the four places where a segment calls its Halt. -/
theorem xferHangsInAHaltThatNeverReturns : Obligations.XferHangsInAHaltThatNeverReturns := by
  refine ⟨?_, ?_, ?_⟩
  · intro cls src dst len step s heven hi hnever
    refine ⟨_, exec_xfer_of_even heven, ?_⟩
    cases hx : Config.params.hwXfer with
    | enabled =>
      by_cases hcross : wordsToBoundary src < len.toNat
      · simp only [decompose_of_crosses hcross, transferNow_of_crosses _ hcross]
        exact hungInHalt_issueSegment hi hx hnever
      · have hfits : len.toNat ≤ wordsToBoundary src := Nat.not_lt.mp hcross
        simp only [decompose_of_fits hfits, transferNow_of_fits _ hfits]
        exact hungInHalt_issueSegment hi hx hnever
    | disabled => exact transferNow_of_copier hx cls src dst len step hi
  · intro cls src dst len step low high s heven hsplit hi hnext hfirst hsecond
    have hcross : wordsToBoundary src < len.toNat := by
      by_contra hfits
      rw [decompose_of_fits (Nat.not_lt.mp hfits)] at hsplit
      cases hsplit
    rw [decompose_of_crosses hcross] at hsplit
    cases hsplit
    refine ⟨_, exec_xfer_of_even heven, ?_⟩
    cases hx : Config.params.hwXfer with
    | enabled =>
      have hmid : (s.afterHigh Config.params cls src dst len).env.engine = .idle := by
        rw [afterHigh_engine, hx]
        exact hnext
      have hbus : s.env.busTaken = false := by simpa using fun hb => hsecond (.inl hb)
      have hnever : ¬HaltsReturn (s.afterHigh Config.params cls src dst len).env 1 := by
        rw [afterHigh_env]
        simp only [Env.afterSegment, hx]
        exact not_haltsReturn_afterTransfer _ _ hfirst hsecond
      have hauto : (s.afterHigh Config.params cls src dst len).env.autoStep =
          stepAfterW2 Config.params (packMid (highPart src dst len).src s.env.autoStep) s.env.autoStep := by
        rw [afterHigh_env]
        simp only [Env.afterSegment, hx]
        rfl
      have hhung := hungInHalt_transferLow (step := step) hx hmid hnever
      rw [hauto, hbus, ← List.append_assoc] at hhung
      rw [transferNow_of_high_returns hcross hi (by simpa only [hardwareTransfers, hx] using hfirst)]
      exact hhung
    | disabled => exact transferNow_of_copier hx cls src dst len step hi
  · intro cls low step s hheld hi hnever
    refine ⟨_, step_of_lowSegment hheld hi, ?_⟩
    rw [transferLow_eq]
    cases hx : Config.params.hwXfer with
    | enabled => exact HungInHalt.of_resumed (hungInHalt_issueSegment (s := { s with held := none }) hi hx hnever)
    | disabled => exact issueLast_of_copier (s := { s with held := none }) hx hi

end Sys2Proof.Machine
end

section
/-!
PROOFS. The direct transfers continued (43_direct_transfer.md, 44_software_fallback.md): the low segment of a held XFER, FILL, COPY,
SWCOPY, odd source addresses, and the step a direct operation leaves; then the port words the host writes itself (70_reset_and_hazards.md
R278).
-/

namespace Sys2Proof.Machine

open Sys2Proof BitVec

/-! ### The low segment of a held XFER -/

/-- Settles O34: the hold is over, and the segment goes out as one of a request that does not cross would. -/
theorem heldXferIssuesItsLowSegment : Obligations.HeldXferIssuesItsLowSegment := by
  intro cls low stp s hheld hi hret
  have hsame := sameStores_held_talked s [] s.env none
  rw [talked_nil] at hsame
  refine ⟨_, (step_of_lowSegment hheld hi).trans (congrArg _ ((transferLow_eq ..).trans
    (waitIdle_issueSegment_eq (s := { s with held := none }) _ _ _ _ _ hi hret))), ?_, rfl, rfl, ?_, ⟨?_, rfl⟩, ?_, ?_, ?_, ?_⟩
  · rw [respond_trace, talked_trace, List.append_assoc]
  · exact (hsame.trans (sameStores_respond_talked _ _ _ _)).sameQueue
  · exact (hsame.trans (sameStores_respond_talked _ _ _ _)).sameSource
  · exact afterSegment_busTaken ..
  · exact afterSegment_pending ..
  · exact triggered_afterSegment ..
  · exact stepLeft_afterSegment Config.params low stp { s with held := none }

/-! ### FILL and COPY (R204, R206) -/

theorem exec_fill (dst len : Half) (val : Byte) (step : Half) (s : State) :
    exec (.fill dst len val step) s =
      .next (waitIdle (.start (.fill dst len val step)) (fillFromIdle Config.params dst len val step) s) := rfl

theorem exec_copy (srcoff dst len step : Half) (s : State) :
    exec (.copy srcoff dst len step) s =
      .next (waitIdle (.start (.copy srcoff dst len step)) (copyFromIdle Config.params srcoff dst len step) s) := rfl

section FillCopy

variable {p : Params} {s : State} {h : Held}

/-- The environment after a fill whose Halt returned. -/
def Env.afterFill (eff : Half) (e : Env) : Env :=
  { e.triggered with autoStep := eff, overrun := e.overrun || e.engine != .idle }

/-- The events of a fill before its `HALT`. -/
def fillHead (dst len step : Half) (wasTaken : Bool) : List Event :=
  [Event.wait] ++ (if step = 0xFFFF#16 then ([] : List Event) else [Event.setStep step]) ++
    [Event.cw32 (packLen (fillAdjust dst len)), Event.cw16 0x9780#16, Event.taken wasTaken]

theorem waitIdle_fill_eq (dst len : Half) (val : Byte) (step : Half) (hi : s.env.engine = .idle) (hret : HaltsReturn s.env 1) :
    waitIdle h (fillFromIdle p dst len val step) s =
      respond 1#32
        (s.talked
          (fillHead dst len step s.env.busTaken ++ [.halt, .cw32 (p.fillTrigWord dst), .dw16 (val ++ val)] ++
            resumeEvents s.env.busTaken)
          (s.env.afterFill (effStep step s))) := by
  rw [waitIdle_of_idle _ _ hi, fillFromIdle_eq p (s.talked [.wait] s.env) dst len val step hret, talked_talked,
    fillData_eq_append]
  simp only [fillHead, List.append_assoc, List.cons_append, List.nil_append]
  rfl

theorem waitIdle_fill_of_never (dst len : Half) (val : Byte) (step : Half) (hi : s.env.engine = .idle)
    (hnever : ¬HaltsReturn s.env 1) :
    waitIdle h (fillFromIdle p dst len val step) s =
      State.hungInHalt (s.talked (fillHead dst len step s.env.busTaken) { s.env with autoStep := effStep step s }) := by
  rw [waitIdle_of_idle _ _ hi, fillFromIdle_of_never p (s.talked [.wait] s.env) dst len val step hnever, talked_talked]
  simp only [fillHead, talked_env, hi, bne_self_eq_false, Bool.or_false, List.append_assoc]
  rfl

/-- The events of a copy before its `HALT`. -/
def copyHead (srcoff len step current : Half) (wasTaken : Bool) : List Event :=
  [Event.wait] ++ stepEvents current step ++
    [Event.cw32 (packLen len), Event.cw32 (packMid (copyAddr srcoff) (if step = 0xFFFF#16 then current else step)),
      Event.cw32 (packHiLo (copyAddr srcoff)), Event.cw16 0x97C0#16, Event.taken wasTaken]

theorem waitIdle_copy_eq (srcoff dst len step : Half) (hi : s.env.engine = .idle) (hret : HaltsReturn s.env 1) :
    waitIdle h (copyFromIdle p srcoff dst len step) s =
      respond 1#32
        (s.talked
          (copyHead srcoff len step s.env.autoStep s.env.busTaken ++ [.halt, .cw32 (p.copyTrigWord dst)] ++
            resumeEvents s.env.busTaken)
          ({ s.env with autoStep := effStep step s }.afterTransfer p (packMid (copyAddr srcoff) (effStep step s)))) := by
  rw [waitIdle_of_idle _ _ hi, copyFromIdle_eq p (s.talked [.wait] s.env) srcoff dst len step hret, talked_talked]
  simp only [copyHead, List.append_assoc, List.cons_append, List.nil_append]
  rfl

theorem waitIdle_copy_of_never (srcoff dst len step : Half) (hi : s.env.engine = .idle) (hnever : ¬HaltsReturn s.env 1) :
    ∃ v : Half, waitIdle h (copyFromIdle p srcoff dst len step) s =
      State.hungInHalt
        (s.talked (copyHead srcoff len step s.env.autoStep s.env.busTaken) { s.env with autoStep := v }) := by
  refine ⟨stepAfterW2 p (packMid (copyAddr srcoff) (effStep step s)) (effStep step s), ?_⟩
  rw [waitIdle_of_idle _ _ hi, copyFromIdle_of_never p (s.talked [.wait] s.env) srcoff dst len step hnever, talked_talked]
  simp only [copyHead, talked_env, hi, bne_self_eq_false, Bool.or_false, List.append_assoc]
  rfl

end FillCopy

/-- Settles O36, by what the wait and the Halt answer. -/
theorem fillIssuesItsSequence : Obligations.FillIssuesItsSequence := by
  intro dst len val step s head
  refine ⟨?_, ?_, ?_⟩
  · intro hbusy
    rw [exec_fill, waitIdle_of_busy _ _ hbusy]
  · intro hi hret
    refine ⟨_, (exec_fill ..).trans (congrArg _ (waitIdle_fill_eq dst len val step hi hret)), ?_, effStep_eq s step, rfl, ?_, ?_,
      rfl, rfl, rfl, triggered_one rfl rfl rfl⟩
    · rw [respond_trace, talked_trace, List.append_assoc]
      rfl
    · exact (sameStores_respond_talked s _ _ _).sameQueue
    · exact ⟨(sameStores_respond_talked s _ _ _).sameSource, rfl⟩
  · intro hi hnever
    refine ⟨_, (exec_fill ..).trans (congrArg _ (waitIdle_fill_of_never dst len val step hi hnever)), ?_⟩
    exact hungInHalt_spec s _ rfl

/-- Settles O37, by what the wait and the Halt answer. -/
theorem copyIssuesItsSequence : Obligations.CopyIssuesItsSequence := by
  intro srcoff dst len step s eff a head
  refine ⟨?_, ?_, ?_⟩
  · intro hbusy
    rw [exec_copy, waitIdle_of_busy _ _ hbusy]
  · intro hi hret
    refine ⟨_, (exec_copy ..).trans (congrArg _ (waitIdle_copy_eq srcoff dst len step hi hret)), ?_, rfl, ?_, ?_, rfl, rfl, rfl,
      triggered_one rfl rfl rfl⟩
    · rw [respond_trace, talked_trace, List.append_assoc]
      rfl
    · exact (sameStores_respond_talked s _ _ _).sameQueue
    · exact ⟨(sameStores_respond_talked s _ _ _).sameSource, rfl⟩
  · intro hi hnever
    obtain ⟨v, hv⟩ := waitIdle_copy_of_never (p := Config.params) (h := .start (.copy srcoff dst len step)) srcoff dst len step hi hnever
    refine ⟨_, (exec_copy ..).trans (congrArg _ hv), ?_⟩
    exact hungInHalt_spec s _ rfl

/-! ### SWCOPY, and odd source addresses (R70, R231) -/

section Swcopy

variable {trig : Word} {src : SrcAddr} {len step : Half} {s : State}

theorem exec_swcopy_of_odd (hodd : srcEven src = false) :
    exec (.swcopy trig src len step) s = .next (raise Config.params .badCommand s) := by
  have harm : exec (.swcopy trig src len step) s = execSwcopy trig src len step s := rfl
  rw [harm, execSwcopy, srcOdd_eq, hodd, Bool.not_false, if_pos rfl]

theorem exec_swcopy_of_even (heven : srcEven src = true) :
    exec (.swcopy trig src len step) s =
      .next (respond 1#32
        (s.talked (copierEvents Config.params s.srcMem trig src len step) { s.env with autoStep := step })) := by
  have harm : exec (.swcopy trig src len step) s = execSwcopy trig src len step s := rfl
  rw [harm, execSwcopy, srcOdd_eq, heven, Bool.not_true, if_neg Bool.false_ne_true, softwareCopy_eq]

end Swcopy

/-- Settles O38: the copier talks and sets the step, then RESP. -/
theorem swcopyCopiesWordByWord : Obligations.SwcopyCopiesWordByWord := by
  intro trig src len step s heven
  refine ⟨_, exec_swcopy_of_even heven, ?_, rfl, rfl, ?_, ⟨?_, rfl⟩, rfl⟩
  · rw [respond_trace, talked_trace, List.append_assoc]
  · exact (sameStores_respond_talked s _ _ _).sameQueue
  · exact (sameStores_respond_talked s _ _ _).sameSource

/-- Settles O17: the check comes first in each of the three commands. -/
theorem oddSourceAddressesAreRefused : Obligations.OddSourceAddressesAreRefused := by
  intro cls src dst len step trig s hodd refused
  have hraise : Host.Outcome.next (raise Config.params .badCommand s) = refused := by
    rw [raise_eq]
    rfl
  exact ⟨(exec_enq_of_odd hodd).trans hraise, (exec_xfer_of_odd hodd).trans hraise, (exec_swcopy_of_odd hodd).trans hraise⟩

/-! ### The step a direct operation leaves (R281) -/

section StepLeft

variable {p : Params} {s : State} {h : Held} {stp : Half}

/-- The last segment of an XFER, where it ends the command. -/
theorem stepLeft_issueLast (cls : DestClass) (seg : Segment)
    (hend : (waitIdle h (issueSegment p cls seg stp (respond 1#32)) s).held = none) :
    StepLeft stp s.env.autoStep (waitIdle h (issueSegment p cls seg stp (respond 1#32)) s).env.autoStep := by
  obtain ⟨hi, hret⟩ := returns_of_issueSegment_ended p cls seg stp _ hend
  rw [waitIdle_issueSegment_eq _ _ _ _ _ hi hret]
  exact stepLeft_afterSegment p seg stp s

/-- XFER: under the sentinel the high segment leaves the step alone, then the low one leaves the operand's. -/
theorem stepLeft_transferNow (cls : DestClass) (src : SrcAddr) (dst len : Half)
    (hend : (transferNow p cls src dst len stp s).held = none) :
    StepLeft stp s.env.autoStep (transferNow p cls src dst len stp s).env.autoStep := by
  by_cases hcross : wordsToBoundary src < len.toNat
  · have hend' := hend
    rw [transferNow_of_crosses p hcross] at hend'
    obtain ⟨hi, hret⟩ := returns_of_issueSegment_ended p cls _ _ _ hend'
    rw [transferNow_of_high_returns hcross hi hret, transferLow_eq] at hend ⊢
    exact (stepLeft_afterSegment p (highPart src dst len) 0xFFFF#16 s).trans (stepLeft_issueLast cls _ hend)
  · rw [transferNow_of_fits p (by omega)] at hend ⊢
    exact stepLeft_issueLast cls _ hend

theorem stepLeft_fill (dst len : Half) (val : Byte)
    (hend : (waitIdle h (fillFromIdle p dst len val stp) s).held = none) :
    StepLeft stp s.env.autoStep (waitIdle h (fillFromIdle p dst len val stp) s).env.autoStep := by
  by_cases hi : s.env.engine = .idle
  · by_cases hret : HaltsReturn s.env 1
    · rw [waitIdle_fill_eq dst len val stp hi hret]
      exact stepLeft_of_effStep s fun _ => rfl
    · rw [waitIdle_fill_of_never dst len val stp hi hret] at hend
      cases hend
  · rw [waitIdle_of_busy _ _ hi] at hend
    cases hend

theorem stepLeft_copy (srcoff dst len : Half) (hend : (waitIdle h (copyFromIdle p srcoff dst len stp) s).held = none) :
    StepLeft stp s.env.autoStep (waitIdle h (copyFromIdle p srcoff dst len stp) s).env.autoStep := by
  by_cases hi : s.env.engine = .idle
  · by_cases hret : HaltsReturn s.env 1
    · rw [waitIdle_copy_eq srcoff dst len stp hi hret]
      exact stepLeft_of_effStep s (stepAfterW2_packMid p (copyAddr srcoff))
    · obtain ⟨v, hv⟩ := waitIdle_copy_of_never (p := p) (h := h) srcoff dst len stp hi hret
      rw [hv] at hend
      cases hend
  · rw [waitIdle_of_busy _ _ hi] at hend
    cases hend

end StepLeft

/-- Settles O39, operation by operation. -/
theorem directOperationsLeaveTheirStep : Obligations.DirectOperationsLeaveTheirStep := by
  rintro i stp s t (⟨cls, src, dst, len, rfl, heven⟩ | ⟨dst, len, val, rfl⟩ | ⟨srcoff, dst, len, rfl⟩) - hexec hend
  · rw [exec_xfer_of_even heven] at hexec
    cases hexec
    exact stepLeft_transferNow cls src dst len hend
  · cases hexec
    exact stepLeft_fill dst len val hend
  · cases hexec
    exact stepLeft_copy srcoff dst len hend

/-! ### Port words (R81 to R87; log 11) -/

/-- The W2 of two lanes has them there (R82). -/
theorem midWord_lanes (mid step : Byte) : midWord mid step = 0x96#8 ++ mid ++ 0x8F#8 ++ step := by
  have hmid : (mid.setWidth 25 <<< 9).extractLsb' 9 8 = mid :=
    (extractLsb'_shiftLeft_setWidth mid (by omega) (by omega)).trans extractLsb'_eq_self
  rw [midWord, packMid_lanes, hmid]

/-- The W3 of two lanes has them there (R83). -/
theorem hiLoWord_lanes (hi : BitVec 7) (lo : Byte) : hiLoWord hi lo = 0x97#8 ++ 0#1 ++ hi ++ 0x95#8 ++ lo := by
  have hhi : (hi.setWidth 25 <<< 17 ||| lo.setWidth 25 <<< 1).extractLsb' 17 7 = hi := by
    rw [extractLsb'_or, extractLsb'_shiftLeft_setWidth hi (by omega) (by omega),
      extractLsb'_shiftLeft_setWidth lo (by omega) (by omega)]
    ext i h
    simp [getLsbD_of_ge lo (16 + i) (by omega)]
  have hlo : (hi.setWidth 25 <<< 17 ||| lo.setWidth 25 <<< 1).extractLsb' 1 8 = lo := by
    rw [extractLsb'_or, extractLsb'_shiftLeft_setWidth lo (by omega) (by omega)]
    ext i h
    simp
    omega
  rw [hiLoWord, packHiLo_lanes, hhi, hlo]

/-- A W2 with its lanes in place leaves the auto-increment or sets it to its step (R59, R88). -/
theorem stepAfterW2_midWord (p : Params) (mid step : Byte) (old : Half) :
    stepAfterW2 p (midWord mid step) old = old ∨ stepAfterW2 p (midWord mid step) old = step.setWidth 16 := by
  have hle : (step.setWidth 16 : Half).toNat ≤ 0xFF := by
    rw [toNat_setWidth]
    have := step.isLt
    omega
  rw [midWord, stepAfterW2_of_byte p _ old hle]
  cases p.stepTracksW2
  · exact .inl rfl
  · exact .inr rfl

/-- Settles O40: one write each; the words' lanes are the packers'. -/
theorem portWordsAreOneWrite : Obligations.PortWordsAreOneWrite := by
  intro s
  refine ⟨?_, ?_, ?_, fun _ => rfl, rfl, rfl, ?_⟩
  · intro len
    rw [← packLen_lanes]
    rfl
  · intro mid stp
    refine ⟨_, stepAfterW2_midWord Config.params mid stp s.env.autoStep, ?_⟩
    rw [← midWord_lanes]
    rfl
  · intro hi lo
    rw [← hiLoWord_lanes]
    rfl
  · intro val
    rw [← fillData_eq_append]
    rfl

end Sys2Proof.Machine
end

section
/-!
PROOFS. The flush engine continued (42_flush_engine.md): what the replay makes of the engine, the bus and the record of transfers begun
too early (70_reset_and_hazards.md R279), where its Halts return, and where one does not.
-/

namespace Sys2Proof.Machine

open Sys2Proof

/-! ### The environment after some transfers -/

/-- The environment after the transfers of some descriptors, each with a Halt that returned. -/
def Env.afterTransfers (p : Params) (ds : List Descriptor) (e : Env) : Env :=
  ds.foldl (fun e d => e.afterTransfer p d.w2) e

/-- Of `n` transfers in a row from `e`, one is begun with the engine busy (R279). -/
def Env.begunBusy (n : Nat) (e : Env) : Bool := ((e.engine :: e.afterTrigger).take n).any (· != .idle)

section AfterTransfers

variable (p : Params) (ds : List Descriptor) (e : Env)

theorem afterTransfers_cons (d : Descriptor) :
    e.afterTransfers p (d :: ds) = (e.afterTransfer p d.w2).afterTransfers p ds := rfl

@[simp] theorem afterTransfers_busTaken : (e.afterTransfers p ds).busTaken = e.busTaken := by
  induction ds generalizing e with
  | nil => rfl
  | cons d ds ih => exact ih _

@[simp] theorem afterTransfers_pending : (e.afterTransfers p ds).pending = e.pending := by
  induction ds generalizing e with
  | nil => rfl
  | cons d ds ih => exact ih _

theorem triggered_afterTransfers : Triggered ds.length ds.length e (e.afterTransfers p ds) := by
  induction ds generalizing e with
  | nil => exact triggered_zero rfl rfl rfl
  | cons d ds ih =>
    rw [List.length_cons, Nat.add_comm]
    exact (triggered_one rfl rfl rfl : Triggered 1 1 e (e.afterTransfer p d.w2)).trans (ih _) rfl

/-- The environment once the three words of a descriptor before its trigger are out (R182). -/
def Env.afterHead (p : Params) (w2 : Word) (e : Env) : Env :=
  { e with autoStep := stepAfterW2 p w2 e.autoStep, overrun := e.overrun || e.engine != .idle }

/-- A next transfer is begun busy where the first or one of the rest is. -/
theorem begunBusy_succ (w2 : Word) (n : Nat) :
    e.begunBusy (n + 1) = (e.engine != .idle || (e.afterTransfer p w2).begunBusy n) := by
  unfold Env.begunBusy
  rw [List.take_succ_cons, List.any_cons, afterTransfer_engine, afterTransfer_afterTrigger, Env.afterNextTrigger]
  congr 1
  cases e.afterTrigger <;> cases n <;> simp

theorem afterTransfers_overrun : (e.afterTransfers p ds).overrun = (e.overrun || e.begunBusy ds.length) := by
  induction ds generalizing e with
  | nil => exact (Bool.or_false _).symm
  | cons d ds ih =>
    rw [afterTransfers_cons, ih, List.length_cons, begunBusy_succ p e d.w2, afterTransfer_overrun, Bool.or_assoc]

/-- The words of one more descriptor after some transfers begin one more (R279). -/
theorem afterHead_afterTransfers_overrun (w2 : Word) :
    ((e.afterTransfers p ds).afterHead p w2).overrun = (e.overrun || e.begunBusy (ds.length + 1)) := by
  have h := afterTransfers_overrun p (ds ++ [⟨0#32, w2, 0#32, 0#32⟩]) e
  rw [List.length_append, Env.afterTransfers, List.foldl_append] at h
  exact h

/-- From an idle engine, D26's premise says that no transfer is begun busy (R279). -/
theorem begunBusy_eq_false_iff {e : Env} (hi : e.engine = .idle) (n : Nat) :
    e.begunBusy n = false ↔ TransfersOverByNextW1 e n := by
  unfold Env.begunBusy TransfersOverByNextW1
  cases n with
  | zero => simp
  | succ n => simp [hi]

theorem begunBusy_mono {e : Env} {m n : Nat} (hmn : m ≤ n) (h : e.begunBusy n = false) : e.begunBusy m = false := by
  unfold Env.begunBusy at h ⊢
  rw [List.any_eq_false] at h ⊢
  exact fun a ha => h a (List.take_subset_take_left _ hmn ha)

end AfterTransfers

/-! ### The replay (R180 step 4) where its Halts return -/

/-- What a replay of `n` descriptors makes of the environment, its Halts returning. -/
structure Replayed (p : Params) (n : Nat) (e v : Env) : Prop where
  bus : v.busTaken = e.busTaken
  pending : v.pending = e.pending
  triggered : Triggered (hardwareTransfers p n) (flushHalts p n) e v
  overrun : v.overrun = match p.hwXfer with
    | .enabled => e.overrun || e.begunBusy n
    | .disabled => e.overrun

section Replay

variable {p : Params} {s : State} (after : State → State)

theorem length_slotsFrom (s : State) (i n : Nat) : (slotsFrom s i n).length = n := by simp [slotsFrom]

/-- PER_TRIGGER scope: the first `k` of the slots are replayed, then the rest. -/
theorem replayAllHardware_perTrigger_split (hp : p.haltScope = .perTrigger) (k m i : Nat) (b : Batch)
    (h : HaltsReturn s.env k) :
    replayAllHardware p (k + m) i b after s =
      replayAllHardware p m (i + k) b after
        (s.talked ((slotsFrom s i k).flatMap (perTriggerEvents s.env.busTaken)) (s.env.afterTransfers p (slotsFrom s i k))) := by
  induction k generalizing s i with
  | zero =>
    rw [Nat.zero_add]
    exact congrArg _ (talked_nil s).symm
  | succ k ih =>
    have hbatch : replayBatch p (s.slot i) b s = b := by rw [replayBatch, hp]
    rw [Nat.succ_add, replayAllHardware, replayHardware_perTrigger_eq p s _ (s.slot i) b hp h.first, hbatch]
    refine (ih (s := s.talked _ _) (i + 1) (h.afterTransfer p (s.slot i).w2)).trans ?_
    rw [talked_talked, Nat.add_assoc, Nat.add_comm 1 k]
    rfl

/-- PER_BATCH scope, the batch being open (R129, R130). -/
theorem replayAllHardware_openBatch_env (hp : p.haltScope = .perBatch) (n i : Nat) {b : Batch} (hb : b.isOpen = true)
    (ht : s.env.busTaken = true) :
    replayAllHardware p n i b after s =
      after (s.talked ((slotsFrom s i n).flatMap laterInBatchEvents ++ resumeEvents b.taken)
        { s.env.afterTransfers p (slotsFrom s i n) with busTaken := b.taken }) := by
  induction n generalizing s i with
  | zero =>
    rw [replayAllHardware, endReplay, hp]
    cases hbt : b.taken <;> simp only [batchEnd_eq, hb, hbt]
    · rfl
    · have henv : { s.env with busTaken := true } = s.env := by rw [← ht]
      exact congrArg after ((talked_nil s).symm.trans (congrArg (s.talked []) henv.symm))
  | succ n ih =>
    rw [replayAllHardware, replayHardware_perBatch_eq p s _ (s.slot i) b hp (.inl ht), replayBatch_perBatch_eq p s (s.slot i) b hp,
      if_pos hb, if_pos hb, ih (s := s.talked _ { s.env.afterTransfer p (s.slot i).w2 with busTaken := true }) (i + 1) rfl,
      talked_talked, slotsFrom_succ, List.flatMap_cons, List.append_assoc]
    have henv : { s.env.afterTransfer p (s.slot i).w2 with busTaken := true } = s.env.afterTransfer p (s.slot i).w2 := by
      rw [← ht]
      rfl
    rw [talked_env, henv]
    rfl

/-- The environment once the first transfer of a batch is out, the bus still taken (R129). -/
def Env.inBatch (p : Params) (d : Descriptor) (e : Env) : Env := { e.afterTransfer p d.w2 with busTaken := true }

/-- PER_BATCH scope: the first slot opens the batch (R129). -/
theorem replayAllHardware_firstInBatch (hp : p.haltScope = .perBatch) (n : Nat) (h : HaltsReturn s.env 1) :
    replayAllHardware p (n + 1) 0 closedBatch after s =
      replayAllHardware p n 1 { isOpen := true, taken := s.env.busTaken } after
        (s.talked [.cw32 (s.slot 0).w1, .cw32 (s.slot 0).w2, .cw32 (s.slot 0).w3, .taken s.env.busTaken, .halt,
            .cw32 (s.slot 0).w4] (s.env.inBatch p (s.slot 0))) := by
  rw [replayAllHardware, replayHardware_perBatch_eq p s _ (s.slot 0) closedBatch hp h,
    replayBatch_perBatch_eq p s (s.slot 0) closedBatch hp]
  rfl

/-- HWXFER disabled: the copier moves each slot's data, and leaves the auto-increment at the last step (R183). -/
theorem replayAllFallback_env (n i : Nat) :
    ∃ w : Half, replayAllFallback p n i s =
      s.talked ((slotsFrom s i n).flatMap fun d =>
        copierEvents p s.srcMem d.w4 (unpackSrc d.w2 d.w3) (unpackLen d.w1) (unpackStep d.w2)) { s.env with autoStep := w } := by
  induction n generalizing s i with
  | zero => exact ⟨s.env.autoStep, (talked_nil s).symm⟩
  | succ n ih =>
    rw [replayAllFallback, replayFallback_eq]
    obtain ⟨w, hw⟩ := ih (s := s.talked _ _) (i + 1)
    refine ⟨w, hw.trans ?_⟩
    rw [talked_talked, slotsFrom_succ, List.flatMap_cons]
    rfl

/-- Triggers within an open batch use up no Halt that finds the bus not taken. -/
theorem Triggered.trans_taken {a b c d : Nat} {e e' e'' : Env} (h : Triggered a b e e') (h' : Triggered c d e' e'')
    (hbus : e'.busTaken = true) : Triggered (a + c) b e e'' := by
  obtain ⟨hengine, hafter, hrel⟩ := h
  obtain ⟨hengine', hafter', hrel'⟩ := h'
  rw [if_pos hbus] at hrel'
  refine ⟨?_, by rw [hafter', hafter, List.drop_drop], hrel'.trans hrel⟩
  rw [hengine', hengine, hafter, List.drop_drop]
  cases c with
  | zero => simp
  | succ c => simp

/-- PER_TRIGGER scope, the Halts returning. -/
theorem replayAllHardware_perTrigger_returns (hx : p.hwXfer = .enabled) (hp : p.haltScope = .perTrigger) (n : Nat)
    (h : HaltsReturn s.env n) :
    ∃ v, Replayed p n s.env v ∧ replayAllHardware p n 0 closedBatch after s =
      after (s.talked ((slotsFrom s 0 n).flatMap (perTriggerEvents s.env.busTaken)) v) := by
  refine ⟨s.env.afterTransfers p (slotsFrom s 0 n), ⟨by simp, by simp, ?_, ?_⟩, ?_⟩
  · have := triggered_afterTransfers p (slotsFrom s 0 n) s.env
    rw [length_slotsFrom] at this
    simpa only [hardwareTransfers, flushHalts, hx, hp] using this
  · rw [afterTransfers_overrun, length_slotsFrom, hx]
  · refine (replayAllHardware_perTrigger_split after hp n 0 0 closedBatch h).trans ?_
    rw [replayAllHardware, endReplay, hp]

/-- PER_BATCH scope, the first Halt returning: one Halt finds the bus not taken, and the end of the batch gives it back. -/
theorem replayAllHardware_perBatch_returns (hx : p.hwXfer = .enabled) (hp : p.haltScope = .perBatch) (n : Nat)
    (h : HaltsReturn s.env (min n 1)) :
    ∃ v, Replayed p n s.env v ∧ replayAllHardware p n 0 closedBatch after s =
      after (s.talked (perBatchEvents s.env.busTaken (slotsFrom s 0 n) ++
        if (slotsFrom s 0 n).isEmpty then [] else resumeEvents s.env.busTaken) v) := by
  cases n with
  | zero =>
    refine ⟨s.env, ⟨rfl, rfl, ?_, ?_⟩, ?_⟩
    · simp only [hardwareTransfers, flushHalts, hx, hp]
      exact triggered_zero rfl rfl rfl
    · rw [hx]
      exact (Bool.or_false _).symm
    · rw [replayAllHardware, endReplay, hp]
      exact congrArg after (talked_nil s).symm
  | succ n =>
    obtain ⟨first, hfirst⟩ : ∃ e, e = s.env.inBatch p (s.slot 0) := ⟨_, rfl⟩
    have htaken : first.busTaken = true := by rw [hfirst]; rfl
    refine ⟨{ first.afterTransfers p (slotsFrom s 1 n) with busTaken := s.env.busTaken }, ⟨rfl, ?_, ?_, ?_⟩, ?_⟩
    · rw [hfirst]
      exact afterTransfers_pending ..
    · have hone : Triggered 1 1 s.env first := by rw [hfirst]; exact triggered_one rfl rfl rfl
      have hall := hone.trans_taken (triggered_afterTransfers p (slotsFrom s 1 n) first) htaken
      rw [length_slotsFrom, Nat.add_comm] at hall
      simp only [hardwareTransfers, flushHalts, hx, hp, Nat.min_eq_right (Nat.le_add_left 1 n)]
      exact hall
    · have hbegun : first.begunBusy n = (s.env.afterTransfer p (s.slot 0).w2).begunBusy n := by rw [hfirst]; rfl
      have hover : first.overrun = (s.env.overrun || s.env.engine != .idle) := by rw [hfirst]; rfl
      rw [hx]
      refine (afterTransfers_overrun ..).trans ?_
      rw [length_slotsFrom, hbegun, hover, begunBusy_succ p s.env (s.slot 0).w2, Bool.or_assoc]
    · rw [replayAllHardware_firstInBatch after hp n (by simpa using h), ← hfirst]
      refine (replayAllHardware_openBatch_env (s := s.talked _ first) after hp n 1 rfl htaken).trans ?_
      rw [talked_talked, slotsFrom_succ, perBatchEvents_cons, List.append_assoc]
      rfl

/-- Step 4 of FLUSH, the Halts returning: its events, and what it makes of the environment (R180). -/
theorem replayAll_returns (n : Nat) (h : HaltsReturn s.env (flushHalts p n)) :
    ∃ v, Replayed p n s.env v ∧ replayAll p n after s = after (s.talked (replayEvents p s (firstSlots s n)) v) := by
  rw [firstSlots_eq_slotsFrom]
  cases hx : p.hwXfer with
  | enabled =>
    cases hp : p.haltScope <;> simp only [flushHalts, hardwareTransfers, hp, hx] at h <;>
      simp only [replayAll, replayEvents, hp, hx]
    · exact replayAllHardware_perTrigger_returns after hx hp n h
    · exact replayAllHardware_perBatch_returns after hx hp n h
  | disabled =>
    obtain ⟨w, hw⟩ := replayAllFallback_env (p := p) (s := s) n 0
    refine ⟨{ s.env with autoStep := w }, ⟨rfl, rfl, ?_, ?_⟩, ?_⟩
    · have hzero : hardwareTransfers p n = 0 ∧ flushHalts p n = 0 := by
        cases hp : p.haltScope <;> simp only [hardwareTransfers, flushHalts, hx, hp, and_self]
      rw [hzero.1, hzero.2]
      exact triggered_zero rfl rfl rfl
    · rw [hx]
    · simp only [replayAll, replayEvents, hx]
      exact congrArg after hw

/-! ### The replay where a Halt never returns (U13) -/

/-- Of some Halts that do not all return there is a first that does not. -/
theorem exists_first_never {e : Env} {n : Nat} (h : ¬HaltsReturn e n) :
    e.busTaken = false ∧ ∃ k < n, HaltsReturn e k ∧ e.releases[k]? = some .never := by
  refine ⟨by simpa using fun hb => h (.inl hb), ?_⟩
  induction n with
  | zero => exact absurd (haltsReturn_zero e) h
  | succ n ih =>
    by_cases hn : HaltsReturn e n
    · refine ⟨n, Nat.lt_succ_self n, hn, ?_⟩
      have hbus : ¬e.busTaken = true := fun hb => h (.inl hb)
      have hrel := hn.resolve_left hbus
      by_contra hne
      refine h (.inr fun r hr => ?_)
      rw [List.take_add_one, List.mem_append] at hr
      rcases hr with hr | hr
      · exact hrel r hr
      · rintro rfl
        exact hne (by simpa using hr)
    · obtain ⟨k, hk, hret, hnever⟩ := ih hn
      exact ⟨k, Nat.lt_succ_of_lt hk, hret, hnever⟩

/-- A next Halt that the coprocessor never answers does not return. -/
theorem not_haltsReturn_of_never {e : Env} (hbus : e.busTaken = false) (h : e.releases[0]? = some .never) :
    ¬HaltsReturn e 1 := by
  rw [haltsReturn_one, not_or]
  cases hrs : e.releases with
  | nil => simp [hrs] at h
  | cons r rs =>
    simp only [hrs, List.getElem?_cons_zero, Option.some.injEq] at h
    simp [hbus, Env.nextRelease, hrs, h]

/-- The first slot of a replay whose Halt never returns. -/
theorem replayAllHardware_of_never (m i : Nat) (b : Batch) (hb : p.haltScope = .perBatch → b.isOpen = false)
    (h : ¬HaltsReturn s.env 1) : replayAllHardware p (m + 1) i b after s = hungTransfer p s (s.slot i) :=
  replayHardware_of_never p s _ (s.slot i) b hb h

/-- Only with hardware transfers does a FLUSH call a Halt, and in PER_BATCH scope only one that finds the bus not taken (R129). -/
theorem lt_flushHalts {k n : Nat} (h : k < flushHalts p n) :
    p.hwXfer = .enabled ∧ k < n ∧ (p.haltScope = .perBatch → k = 0) := by
  cases hx : p.hwXfer <;> cases hp : p.haltScope <;> simp only [flushHalts, hardwareTransfers, hx, hp] at h
  · exact ⟨rfl, h, fun hp => by cases hp⟩
  · exact ⟨rfl, by omega, fun _ => by omega⟩
  · omega
  · omega

/-- The events of a descriptor before a `HALT` that finds the bus not taken (R182). -/
def headEvents (d : Descriptor) : List Event := [.cw32 d.w1, .cw32 d.w2, .cw32 d.w3, .taken false]

/-- Step 4 of FLUSH where the Halt of slot `k` is the first that never returns: the slots before it are replayed (U13). -/
theorem replayAll_of_never {k n : Nat} (hk : k < flushHalts p n) (hbus : s.env.busTaken = false) (hret : HaltsReturn s.env k)
    (hnever : s.env.releases[k]? = some .never) :
    ∃ v : Env, v.busTaken = false ∧ v.pending = s.env.pending ∧ v.overrun = (s.env.overrun || s.env.begunBusy (k + 1)) ∧
      replayAll p n after s =
        State.hungInHalt
          (s.talked ((firstSlots s k).flatMap (perTriggerEvents false) ++
            headEvents (s.slot k)) v) := by
  obtain ⟨hx, hkn, hbatch⟩ := lt_flushHalts hk
  obtain ⟨m, rfl⟩ : ∃ m, n = k + (m + 1) := ⟨n - k - 1, by omega⟩
  have hsplit : replayAllHardware p (k + (m + 1)) 0 closedBatch after s =
      replayAllHardware p (m + 1) k closedBatch after
        (s.talked ((slotsFrom s 0 k).flatMap (perTriggerEvents s.env.busTaken)) (s.env.afterTransfers p (slotsFrom s 0 k))) := by
    cases hp : p.haltScope with
    | perTrigger =>
      refine (replayAllHardware_perTrigger_split after hp k (m + 1) 0 closedBatch hret).trans ?_
      rw [Nat.zero_add]
    | perBatch =>
      obtain rfl := hbatch hp
      rw [Nat.zero_add]
      exact congrArg _ (talked_nil s).symm
  have hrel : (s.env.afterTransfers p (slotsFrom s 0 k)).releases = s.env.releases.drop k := by
    obtain ⟨-, -, hrel⟩ := triggered_afterTransfers p (slotsFrom s 0 k) s.env
    rw [hrel, hbus, length_slotsFrom]
    rfl
  have hnext : ¬HaltsReturn (s.env.afterTransfers p (slotsFrom s 0 k)) 1 := by
    refine not_haltsReturn_of_never (by rw [afterTransfers_busTaken, hbus]) ?_
    rw [hrel, List.getElem?_drop]
    exact hnever
  refine ⟨(s.env.afterTransfers p (slotsFrom s 0 k)).afterHead p (s.slot k).w2, ?_, ?_, ?_, ?_⟩
  · exact (afterTransfers_busTaken ..).trans hbus
  · exact afterTransfers_pending ..
  · rw [afterHead_afterTransfers_overrun, length_slotsFrom]
  · simp only [replayAll, hx]
    rw [hsplit]
    refine (replayAllHardware_of_never (s := s.talked _ (s.env.afterTransfers p (slotsFrom s 0 k))) after m k closedBatch
      (fun _ => rfl) hnext).trans ?_
    rw [hungTransfer, talked_talked, firstSlots_eq_slotsFrom, talked_env, afterTransfers_busTaken, hbus]
    rfl

end Replay

/-! ### FLUSH (R180) -/

/-- replayCount as the obligations write it (R181). -/
theorem replayCount_toNat (s : State) :
    s.replayCount.toNat = if s.ovfidx ≠ 0#16 ∧ s.ignover = true then s.ovfidx.toNat else s.qcount.toNat := by
  have hiff : (s.overflowRecorded && s.ignover) = true ↔ s.ovfidx ≠ 0#16 ∧ s.ignover = true := by
    simp [State.overflowRecorded]
  by_cases h : s.ovfidx ≠ 0#16 ∧ s.ignover = true
  · rw [State.replayCount, if_pos (hiff.mpr h), if_pos h]
  · rw [State.replayCount, if_neg (hiff.not.mpr h), if_neg h]

theorem exec_flush (s : State) :
    exec .flush s = .next (waitIdle (.start .flush) (flushFromIdle Config.params) s) := rfl

/-- FLUSH where its Halts return: its events, what it clears, and what it makes of the environment. -/
theorem exec_flush_returns {s : State} (hi : s.env.engine = .idle)
    (h : HaltsReturn s.env (flushHalts Config.params s.replayCount.toNat)) :
    ∃ v : Env, Replayed Config.params s.replayCount.toNat s.env v ∧ exec .flush s =
      .next { s with
        qcount := 0#16, ovfidx := 0#16, qbytes := 0#32, resp := 1#32, env := { v with autoStep := s.env.autoStep }
        trace := s.trace ++ flushEvents Config.params s } := by
  obtain ⟨v, hreplayed, hv⟩ :=
    replayAll_returns (endFlush s.env.autoStep) (s := s.talked [.wait, .getStep s.env.autoStep] s.env) _ h
  refine ⟨v, hreplayed, ?_⟩
  rw [exec_flush, waitIdle_of_idle _ _ hi, flushFromIdle, askStep_eq, talked_talked]
  refine congrArg Host.Outcome.next (hv.trans ?_)
  rw [talked_talked, endFlush_talked_eq]
  rfl

/-- FLUSH where the Halt of slot `k` is the first that never returns (U13). -/
theorem exec_flush_of_never {s : State} {k : Nat} (hi : s.env.engine = .idle)
    (hk : k < flushHalts Config.params s.replayCount.toNat) (hbus : s.env.busTaken = false) (hret : HaltsReturn s.env k)
    (hnever : s.env.releases[k]? = some .never) :
    ∃ v : Env, v.busTaken = false ∧ v.pending = s.env.pending ∧ v.overrun = (s.env.overrun || s.env.begunBusy (k + 1)) ∧
      exec .flush s = .next (State.hungInHalt
        (s.talked ([Event.wait, Event.getStep s.env.autoStep] ++ (firstSlots s k).flatMap (perTriggerEvents false) ++
            headEvents (s.slot k)) v)) := by
  obtain ⟨v, hvbus, hvpending, hvover, hv⟩ :=
    replayAll_of_never (endFlush s.env.autoStep) (s := s.talked [.wait, .getStep s.env.autoStep] s.env) hk hbus hret hnever
  refine ⟨v, hvbus, hvpending, hvover, ?_⟩
  rw [exec_flush, waitIdle_of_idle _ _ hi, flushFromIdle, askStep_eq, talked_talked]
  refine congrArg Host.Outcome.next (hv.trans ?_)
  rw [talked_talked, ← List.append_assoc]
  rfl

/-- Settles O22: by whether the engine is idle, the replay's environment being `Replayed`. -/
theorem flushReplaysTheQueueAndClearsIt : Obligations.FlushReplaysTheQueueAndClearsIt := by
  intro s n
  have hn : s.replayCount.toNat = n := replayCount_toNat s
  constructor
  · intro hbusy
    rw [exec_flush, waitIdle_of_busy _ _ hbusy]
  · intro hi hret
    rw [← hn] at hret
    obtain ⟨v, hv, hexec⟩ := exec_flush_returns hi hret
    rw [hn] at hv
    refine ⟨_, hexec, ?_, rfl, rfl, rfl, rfl, ⟨rfl, rfl, rfl⟩, fun _ _ => rfl, ⟨fun _ => rfl, rfl⟩, rfl, rfl, hv.bus, hv.pending,
      hv.triggered⟩
    rw [flushEvents, hn]

/-- Settles O24. -/
theorem flushHangsInAHaltThatNeverReturns : Obligations.FlushHangsInAHaltThatNeverReturns := by
  intro s k n hi hbus _ hret hnever
  have hn : s.replayCount.toNat = n := replayCount_toNat s
  refine ⟨_, exec_flush s, fun hk => ?_⟩
  rw [← hn] at hk
  obtain ⟨v, -, hpending, -, hexec⟩ := exec_flush_of_never hi hk hbus hret hnever
  rw [Host.Outcome.next.inj ((exec_flush s).symm.trans hexec)]
  exact hungInHalt_spec s _ hpending

end Sys2Proof.Machine
end

section
/-!
PROOFS. What an instruction can come to, said once for the four commands that may wait (FLUSH, XFER, FILL, COPY) and once for all others,
and the rules of the whole machine that follow: the bus (40_datapath_units.md R128), the record of transfers begun too early
(70_reset_and_hazards.md R279), holds (R287) and RESP (10_state.md R31, 30_encoding.md R100).
-/

namespace Sys2Proof.Machine

open Sys2Proof

/-! ### Events other than RESP -/

/-- The event is no RESP. -/
def isNotResp : Event → Bool
  | .resp _ => false
  | _ => true

section NotResp

theorem notResp_resumeEvents (wasTaken : Bool) : (resumeEvents wasTaken).all isNotResp = true := by
  cases wasTaken <;> rfl

theorem notResp_stepEvents (current step : Half) : (stepEvents current step).all isNotResp = true := by
  unfold stepEvents
  split <;> rfl

theorem notResp_diagEvents (p : Params) (d : Diag) : (diagEvents p d).all isNotResp = true := by
  unfold diagEvents
  split <;> rfl

theorem notResp_storeEvents (p : Params) (s : State) (seg : Segment) : (storeEvents p s seg).all isNotResp = true := by
  rw [storeEvents, List.all_append, Bool.and_eq_true]
  constructor
  · split <;> rfl
  · split
    · exact notResp_diagEvents p _
    · rfl

theorem notResp_perTriggerEvents (wasTaken : Bool) (d : Descriptor) : (perTriggerEvents wasTaken d).all isNotResp = true := by
  rw [perTriggerEvents, List.all_append, notResp_resumeEvents]
  rfl

theorem notResp_copierEvents (p : Params) (m : Memory) (trig : Word) (src : SrcAddr) (len step : Half) :
    (copierEvents p m trig src len step).all isNotResp = true := by
  simp [copierEvents, copierPairs, isNotResp]

theorem notResp_segmentEvents (p : Params) (m : Memory) (wasTaken : Bool) (current : Half) (cls : DestClass) (seg : Segment)
    (step : Half) : (segmentEvents p m wasTaken current cls seg step).all isNotResp = true := by
  cases hx : p.hwXfer <;> simp only [segmentEvents, hx, List.all_append, Bool.and_eq_true]
  · exact ⟨notResp_stepEvents current step, notResp_perTriggerEvents wasTaken _⟩
  · refine ⟨?_, notResp_copierEvents p m _ _ _ _⟩
    split <;> rfl

theorem notResp_flatMap {f : Descriptor → List Event} (h : ∀ d, (f d).all isNotResp = true) (ds : List Descriptor) :
    (ds.flatMap f).all isNotResp = true := by
  simp [List.all_flatMap, h]

theorem notResp_replayEvents (p : Params) (s : State) (ds : List Descriptor) :
    (replayEvents p s ds).all isNotResp = true := by
  unfold replayEvents
  split
  · exact notResp_flatMap (notResp_perTriggerEvents _) ds
  · rw [List.all_append, Bool.and_eq_true]
    constructor
    · cases ds with
      | nil => rfl
      | cons d ds =>
        rw [perBatchEvents_cons, List.all_append, notResp_flatMap fun _ => rfl]
        rfl
    · split
      · rfl
      · exact notResp_resumeEvents _
  · exact notResp_flatMap (fun d => notResp_copierEvents p _ d.w4 _ _ _) ds

end NotResp

/-! ### What a command that may wait can come to -/

/-- The bus is as found, and, given `premise`, no transfer was begun with the engine busy. -/
structure Steady (premise : Prop) (e v : Env) : Prop where
  bus : v.busTaken = e.busTaken
  overrun : premise → v.overrun = e.overrun

theorem Steady.trans {premise : Prop} {e e' e'' : Env} (h : Steady premise e e') (h' : Steady premise e' e'') : Steady premise e e'' :=
  ⟨h'.bus.trans h.bus, fun ho => (h'.overrun ho).trans (h.overrun ho)⟩

/-- How a command that may wait leaves a state, after some events other than RESP: ended by `fin`, held, or hung in a Halt. -/
inductive Reached (fin : State → State) (premise : Prop) (s : State) : State → Prop
  | ended {evs : List Event} {v : Env} (hevs : evs.all isNotResp = true) (hv : Steady premise s.env v) :
      Reached fin premise s (fin (s.talked evs v))
  | waits {evs : List Event} {v : Env} (h : Held) (hv : Steady premise s.env v) :
      Reached fin premise s { s.talked evs v with held := some h }
  | hangs {evs : List Event} {v : Env} (hfree : v.busTaken = false) (hv : Steady premise s.env v) :
      Reached fin premise s (s.talked evs v).hungInHalt

section Reached

variable {fin : State → State} {premise : Prop} {s t : State}

theorem Reached.of_talked {evs : List Event} {v : Env} (h : Reached fin premise (s.talked evs v) t)
    (hevs : evs.all isNotResp = true) (hv : Steady premise s.env v) : Reached fin premise s t := by
  cases h with
  | ended hevs' hv' =>
    rw [talked_talked]
    exact .ended (by rw [List.all_append, hevs, hevs']; rfl) (hv.trans hv')
  | waits h hv' =>
    rw [talked_talked]
    exact .waits h (hv.trans hv')
  | hangs hfree hv' =>
    rw [talked_talked]
    exact .hangs hfree (hv.trans hv')

theorem reached_held (h : Held) : Reached fin premise s { s with held := some h } := by
  have := Reached.waits (fin := fin) (evs := []) h (⟨rfl, fun _ => rfl⟩ : Steady premise s.env s.env)
  rwa [talked_nil] at this

/-- A command that did not end is held; so without a hold it has ended. -/
theorem Reached.of_not_held (h : Reached fin premise s t) (ht : t.held = none) :
    ∃ evs v, evs.all isNotResp = true ∧ t = fin (s.talked evs v) := by
  cases h with
  | ended hevs hv => exact ⟨_, _, hevs, rfl⟩
  | waits h hv => cases ht
  | hangs hfree hv => cases ht

/-- The bus is as found, or the command hangs in a Halt, the bus asked for (U13). -/
def BusAsFound (s t : State) : Prop :=
  t.env.busTaken = s.env.busTaken ∨
    (s.env.busTaken = false ∧ t.env.busTaken = true ∧ t.held = some .inHalt ∧ t.trace.getLast? = some .halt)

theorem Reached.busAsFound (h : Reached fin premise s t) (hfin : ∀ u, (fin u).env = u.env) : BusAsFound s t := by
  cases h with
  | ended hevs hv =>
    refine .inl ?_
    rw [hfin]
    exact hv.bus
  | waits h hv => exact .inl hv.bus
  | hangs hfree hv => exact .inr ⟨hv.bus.symm.trans hfree, rfl, rfl, List.getLast?_concat ..⟩

theorem Reached.overrun (h : Reached fin premise s t) (hfin : ∀ u, (fin u).env = u.env) (ho : premise) :
    t.env.overrun = s.env.overrun := by
  cases h with
  | ended hevs hv =>
    rw [hfin]
    exact hv.overrun ho
  | waits h hv => exact hv.overrun ho
  | hangs hfree hv => exact hv.overrun ho

/-- What ends a command changes BTQC's registers as `fin` does; a hold changes none. -/
theorem Reached.sameStores (h : Reached fin premise s t) (u : State) (hfin : ∀ evs v, SameStores u (fin (s.talked evs v))) :
    SameStores u t ∨ SameStores s t := by
  cases h with
  | ended hevs hv => exact .inl (hfin _ _)
  | waits h hv => exact .inr rfl
  | hangs hfree hv => exact .inr rfl

end Reached

/-! ### XFER, FILL and COPY -/

section Direct

variable {p : Params} {s : State} {h : Held} {premise : Prop}

theorem steady_autoStep (e : Env) (v : Half) : Steady premise e { e with autoStep := v } := ⟨rfl, fun _ => rfl⟩

theorem steady_afterTransfer {e : Env} (hi : e.engine = .idle) (w2 : Word) : Steady premise e (e.afterTransfer p w2) :=
  ⟨rfl, fun _ => by rw [afterTransfer_overrun, hi, bne_self_eq_false, Bool.or_false]⟩

theorem steady_afterSegment {e : Env} (hi : e.engine = .idle) (seg : Segment) (eff : Half) :
    Steady premise e (e.afterSegment p seg eff) := by
  cases hx : p.hwXfer <;> simp only [Env.afterSegment, hx]
  · exact (steady_autoStep e eff).trans (steady_afterTransfer (e := { e with autoStep := eff }) hi _)
  · exact steady_autoStep e eff

theorem free_of_not_haltsReturn {e : Env} {n : Nat} (h : ¬HaltsReturn e n) : e.busTaken = false :=
  Bool.eq_false_iff.mpr fun hb => h (.inl hb)

/-- A segment and its wait, where what comes after it does as a command may. -/
theorem reached_issueSegment {fin after : State → State} (cls : DestClass) (seg : Segment) (step : Half)
    (hafter : ∀ u, Reached fin premise u (after u)) :
    Reached fin premise s (waitIdle h (issueSegment p cls seg step after) s) := by
  by_cases hi : s.env.engine = .idle
  · by_cases hret : HaltsReturn s.env (hardwareTransfers p 1)
    · rw [waitIdle_issueSegment_eq _ _ _ _ _ hi hret]
      exact (hafter _).of_talked (by rw [List.all_append, notResp_segmentEvents]; rfl) (steady_afterSegment hi seg _)
    · cases hx : p.hwXfer <;> simp only [hardwareTransfers, hx] at hret
      · obtain ⟨v, hv⟩ := waitIdle_issueSegment_of_never (h := h) p cls seg step after hi hx hret
        rw [hv]
        exact .hangs (free_of_not_haltsReturn hret) (steady_autoStep _ v)
      · exact absurd (haltsReturn_zero _) hret
  · rw [waitIdle_of_busy _ _ hi]
    exact reached_held h

theorem reached_respond (w : Word) (s : State) : Reached (respond w) premise s (respond w s) := by
  have := Reached.ended (fin := respond w) (evs := []) rfl (⟨rfl, fun _ => rfl⟩ : Steady premise s.env s.env)
  rwa [talked_nil] at this

theorem reached_transferLow (cls : DestClass) (low : Segment) (step : Half) (s : State) :
    Reached (respond 1#32) premise s (transferLow p cls low step s) :=
  reached_issueSegment cls low step (reached_respond 1#32)

theorem reached_transferNow (cls : DestClass) (src : SrcAddr) (dst len step : Half) (s : State) :
    Reached (respond 1#32) premise s (transferNow p cls src dst len step s) := by
  by_cases hcross : wordsToBoundary src < len.toNat
  · rw [transferNow_of_crosses p hcross]
    exact reached_issueSegment cls _ _ (reached_transferLow cls _ step)
  · rw [transferNow_of_fits p (Nat.not_lt.mp hcross)]
    exact reached_issueSegment cls _ step (reached_respond 1#32)

theorem reached_fill (dst len : Half) (val : Byte) (step : Half) :
    Reached (respond 1#32) premise s (waitIdle h (fillFromIdle p dst len val step) s) := by
  have hhead (b : Bool) : (fillHead dst len step b).all isNotResp = true := by
    unfold fillHead
    split <;> rfl
  by_cases hi : s.env.engine = .idle
  · by_cases hret : HaltsReturn s.env 1
    · rw [waitIdle_fill_eq dst len val step hi hret]
      refine .ended ?_ ⟨rfl, fun _ => ?_⟩
      · rw [List.all_append, List.all_append, hhead, notResp_resumeEvents]
        rfl
      · simp [Env.afterFill, hi]
    · rw [waitIdle_fill_of_never dst len val step hi hret]
      exact .hangs (free_of_not_haltsReturn hret) (steady_autoStep _ _)
  · rw [waitIdle_of_busy _ _ hi]
    exact reached_held h

theorem reached_copy (srcoff dst len step : Half) :
    Reached (respond 1#32) premise s (waitIdle h (copyFromIdle p srcoff dst len step) s) := by
  have hhead (current : Half) (b : Bool) : (copyHead srcoff len step current b).all isNotResp = true := by
    rw [copyHead, List.all_append, List.all_append, notResp_stepEvents]
    rfl
  by_cases hi : s.env.engine = .idle
  · by_cases hret : HaltsReturn s.env 1
    · rw [waitIdle_copy_eq srcoff dst len step hi hret]
      refine .ended ?_ ((steady_autoStep _ (effStep step s)).trans
        (steady_afterTransfer (e := { s.env with autoStep := effStep step s }) hi _))
      rw [List.all_append, List.all_append, hhead, notResp_resumeEvents]
      rfl
    · obtain ⟨v, hv⟩ := waitIdle_copy_of_never (p := p) (h := h) srcoff dst len step hi hret
      rw [hv]
      exact .hangs (free_of_not_haltsReturn hret) (steady_autoStep _ v)
  · rw [waitIdle_of_busy _ _ hi]
    exact reached_held h

end Direct

/-! ### FLUSH -/

/-- The last steps of a command that may wait: FLUSH clears the queue, and all answer RESP 1 (R180, R200, R204, R206). -/
def finish (i : Instr) (s : State) : State := respond 1#32 (if i = .flush then clearQueue s else s)

theorem finish_env (i : Instr) (s : State) : (finish i s).env = s.env := by
  unfold finish
  split <;> rfl

theorem reached_flush (s : State) :
    Reached (finish .flush) (TransfersOverByNextW1 s.env s.replayCount.toNat) s
      (waitIdle (.start .flush) (flushFromIdle Config.params) s) := by
  by_cases hi : s.env.engine = .idle
  · by_cases hret : HaltsReturn s.env (flushHalts Config.params s.replayCount.toNat)
    · obtain ⟨v, hv, hexec⟩ := exec_flush_returns hi hret
      have heq : waitIdle (.start .flush) (flushFromIdle Config.params) s =
          finish .flush (s.talked
            ([.wait, .getStep s.env.autoStep] ++ replayEvents Config.params s (firstSlots s s.replayCount.toNat) ++
              [.setStep s.env.autoStep]) { v with autoStep := s.env.autoStep }) := by
        rw [Host.Outcome.next.inj ((exec_flush s).symm.trans hexec)]
        simp [finish, respond_clearQueue_eq, flushEvents, State.talked]
      rw [heq]
      refine .ended ?_ ⟨hv.bus, fun hover => hv.overrun.trans ?_⟩
      · rw [List.all_append, List.all_append, notResp_replayEvents]
        rfl
      · rw [(begunBusy_eq_false_iff hi _).mpr hover, Bool.or_false]
        split <;> rfl
    · obtain ⟨hbus, k, hk, hretk, hnever⟩ := exists_first_never hret
      obtain ⟨-, hkn, -⟩ := lt_flushHalts hk
      obtain ⟨v, hvbus, -, hvover, hexec⟩ := exec_flush_of_never hi hk hbus hretk hnever
      rw [Host.Outcome.next.inj ((exec_flush s).symm.trans hexec)]
      refine .hangs hvbus ⟨hvbus.trans hbus.symm, fun hover => hvover.trans ?_⟩
      rw [begunBusy_mono hkn ((begunBusy_eq_false_iff hi _).mpr hover), Bool.or_false]
  · rw [waitIdle_of_busy _ _ hi]
    exact reached_held _

/-! ### Every instruction -/

/-- The commands that may wait (R287): an XFER of an odd source is refused before its wait (log 18). -/
def mayWait : Instr → Bool
  | .flush | .fill _ _ _ _ | .copy _ _ _ _ => true
  | .xfer _ src _ _ _ => srcEven src
  | _ => false

/-- What a command that may wait can come to. -/
theorem exec_reached {i : Instr} {s t : State} (hi : mayWait i = true) (h : exec i s = .next t) :
    Reached (finish i) (i = .flush → TransfersOverByNextW1 s.env s.replayCount.toNat) s t := by
  have hdirect (hne : i ≠ .flush) : finish i = respond 1#32 := funext fun u => by rw [finish, if_neg hne]
  cases i with
  | flush =>
    cases h
    simpa using reached_flush s
  | xfer cls src dst len step =>
    obtain rfl := Host.Outcome.next.inj ((exec_xfer_of_even hi).symm.trans h)
    rw [hdirect (by simp)]
    exact reached_transferNow cls src dst len step s
  | fill dst len val step =>
    cases h
    rw [hdirect (by simp)]
    exact reached_fill dst len val step
  | copy srcoff dst len step =>
    cases h
    rw [hdirect (by simp)]
    exact reached_copy srcoff dst len step
  | init | setcfg | enq | clrq | qsize | qbytes | qovf | swcopy => cases hi
  | w1Length | w2MidStep | w3HiLo | w4Trigger | fillSuffix | copySuffix | fillData => cases hi

/-- No hold, no Halt and no transfer begun: what an instruction that never waits leaves as it was. -/
structure Unhindered (s t : State) : Prop where
  held : t.held = s.held
  bus : t.env.busTaken = s.env.busTaken
  overrun : t.env.overrun = s.env.overrun

theorem unhindered_refl (s : State) : Unhindered s s := ⟨rfl, rfl, rfl⟩

theorem unhindered_answerByBudget {s t : State} (h : Unhindered s t) : Unhindered s (answerByBudget t) :=
  ⟨h.held, h.bus, h.overrun⟩

theorem unhindered_raise (p : Params) (c : Condition) (s : State) : Unhindered s (raise p c s) := by
  rw [raise_eq]
  exact ⟨rfl, rfl, rfl⟩

theorem unhindered_storeOne (p : Params) (cls : DestClass) (seg : Segment) (step : Half) {s t : State} (h : Unhindered s t) :
    Unhindered s (storeOne p cls seg step t) := by
  have henv : (storeOne p cls seg step t).env = { t.env with pending := (storeOne p cls seg step t).env.pending } := by
    rw [storeOne_env]
    split <;> rfl
  exact ⟨by rw [storeOne_held, h.held], by rw [henv, ← h.bus], by rw [henv, ← h.overrun]⟩

/-- Every other instruction ends at once. -/
theorem exec_unhindered {i : Instr} (hi : mayWait i = false) (s : State) : ∃ t, exec i s = .next t ∧ Unhindered s t := by
  cases i with
  | enq cls src dst len step =>
    rcases exec_enq_cases cls src dst len step s with ⟨c, hexec, -⟩ | ⟨-, -, -, hexec⟩ | ⟨-, -, -, hexec⟩
    · exact ⟨_, hexec, unhindered_raise _ c s⟩
    · exact ⟨_, hexec, unhindered_answerByBudget (unhindered_storeOne _ cls _ step (unhindered_refl s))⟩
    · exact ⟨_, hexec, unhindered_answerByBudget
        (unhindered_storeOne _ cls _ step (unhindered_storeOne _ cls _ step (unhindered_refl s)))⟩
  | xfer cls src dst len step => exact ⟨_, exec_xfer_of_odd hi, unhindered_raise _ _ s⟩
  | swcopy trig src len step =>
    cases heven : srcEven src with
    | false => exact ⟨_, exec_swcopy_of_odd heven, unhindered_raise _ _ s⟩
    | true => exact ⟨_, exec_swcopy_of_even heven, rfl, rfl, rfl⟩
  | flush | fill | copy => cases hi
  | init | setcfg | clrq | qsize | qbytes | qovf => exact ⟨_, rfl, rfl, rfl, rfl⟩
  | w1Length | w2MidStep | w3HiLo | w4Trigger | fillSuffix | copySuffix | fillData => exact ⟨_, rfl, rfl, rfl, rfl⟩

/-! ### Holds (R287) -/

theorem mayWait_iff (i : Instr) :
    mayWait i = true ↔ i = .flush ∨ (∃ cls src dst len stp, i = .xfer cls src dst len stp ∧ srcEven src = true) ∨
      (∃ dst len val stp, i = .fill dst len val stp) ∨ ∃ srcoff dst len stp, i = .copy srcoff dst len stp := by
  cases i with
  | flush | xfer | fill | copy => simp [mayWait]
  | init | setcfg | enq | clrq | qsize | qbytes | qovf | swcopy => simp [mayWait]
  | w1Length | w2MidStep | w3HiLo | w4Trigger | fillSuffix | copySuffix | fillData => simp [mayWait]

/-- A command that may wait does nothing before its wait. -/
theorem exec_of_busy {i : Instr} {s : State} (hi : mayWait i = true) (hbusy : s.env.engine ≠ .idle) :
    exec i s = .next { s with held := some (.start i) } := by
  obtain rfl | ⟨cls, src, dst, len, stp, rfl, heven⟩ | ⟨dst, len, val, stp, rfl⟩ | ⟨srcoff, dst, len, stp, rfl⟩ :=
    (mayWait_iff i).mp hi
  · rw [exec_flush, waitIdle_of_busy _ _ hbusy]
  · rw [exec_xfer_of_even heven]
    by_cases hcross : wordsToBoundary src < len.toNat
    · rw [transferNow_of_crosses _ hcross, waitIdle_of_busy _ _ hbusy]
    · rw [transferNow_of_fits _ (Nat.not_lt.mp hcross), waitIdle_of_busy _ _ hbusy]
  · rw [exec_fill, waitIdle_of_busy _ _ hbusy]
  · rw [exec_copy, waitIdle_of_busy _ _ hbusy]

/-- Settles O45. -/
theorem onlyFourCommandsCanBeHeld : Obligations.OnlyFourCommandsCanBeHeld := by
  intro i s may
  have hmay : mayWait i = true ↔ may := mayWait_iff i
  constructor
  · exact fun hi hbusy => exec_of_busy (hmay.mpr hi) hbusy
  · intro hi
    obtain ⟨t, hexec, ht⟩ := exec_unhindered (Bool.eq_false_iff.mpr (hmay.not.mpr hi)) s
    exact ⟨t, hexec, ht.held⟩

/-! ### The bus (R128) -/

/-- An instruction leaves the bus as found, or hangs in a Halt. -/
theorem exec_busAsFound {i : Instr} {s t : State} (h : exec i s = .next t) : BusAsFound s t := by
  cases hi : mayWait i with
  | true => exact (exec_reached hi h).busAsFound (finish_env i)
  | false =>
    obtain ⟨u, hexec, hu⟩ := exec_unhindered hi s
    obtain rfl := Host.Outcome.next.inj (hexec.symm.trans h)
    exact .inl hu.bus

/-- Settles O56: instruction by instruction, and hold by hold. -/
theorem theBusIsGivenBackAsFound : Obligations.TheBusIsGivenBackAsFound := by
  rintro s t (⟨i, hexec⟩ | ⟨h, hresume⟩)
  · exact exec_busAsFound hexec
  · cases h with
    | start i => exact exec_busAsFound hresume
    | lowSegment cls low step =>
      cases hresume
      exact (reached_transferLow (premise := False) cls low step s).busAsFound fun _ => rfl
    | inHalt =>
      cases hresume
      exact .inl rfl

/-! ### The busy hazard (R279) -/

/-- Settles O25: FLUSH by what its replay makes of the record, the rest by their waits. -/
theorem busyHazardIsFlushWithoutItsPremise : Obligations.BusyHazardIsFlushWithoutItsPremise := by
  refine ⟨?_, ?_, ?_⟩
  · intro s n
    have hn : s.replayCount.toNat = n := replayCount_toNat s
    constructor
    · intro t hpremise hexec
      exact (exec_reached rfl hexec).overrun (finish_env _) fun _ => hn.symm ▸ hpremise
    · intro hi hret hpremise
      rw [← hn] at hret hpremise
      obtain ⟨v, hv, hexec⟩ := exec_flush_returns hi hret
      have hbegun : s.env.begunBusy s.replayCount.toNat = true := by
        simpa using (begunBusy_eq_false_iff hi _).not.mpr hpremise
      refine ⟨_, hexec, hv.overrun.trans ?_⟩
      cases Config.params.hwXfer with
      | enabled => rw [hbegun, Bool.or_true]
      | disabled => rfl
  · intro i s t hne hexec
    cases hi : mayWait i with
    | true => exact (exec_reached hi hexec).overrun (finish_env i) fun h => absurd h hne
    | false =>
      obtain ⟨u, hexec', hu⟩ := exec_unhindered hi s
      obtain rfl := Host.Outcome.next.inj (hexec'.symm.trans hexec)
      exact hu.overrun
  · intro cls low step s t hresume
    cases hresume
    exact (reached_transferLow (premise := True) cls low step s).overrun (fun _ => rfl) trivial

/-! ### RESP (R31, R100) -/

/-- The RESP of a command that ends, by command (R100; log 18). -/
def IsAnswer (s : State) (r : Word) : Instr → Prop
  | .enq _ src _ _ _ => (srcEven src = true → r = 0#32 ∨ r = 1#32) ∧ (srcEven src = false → r = 0#32)
  | .qsize => r = s.qcount.setWidth 32
  | .qbytes => r = s.qbytes
  | .qovf => r = s.ovfidx.setWidth 32
  | .xfer _ src _ _ _ => r = if srcEven src then 1#32 else 0#32
  | .swcopy _ src _ _ => r = if srcEven src then 1#32 else 0#32
  | _ => r = 1#32

/-- The command ended by answering `r`, its other events being no RESP. -/
def Answered (s t : State) (r : Word) : Prop :=
  ∃ (u : State) (evs : List Event), t = respond r u ∧ u.trace = s.trace ++ evs ∧ evs.all isNotResp = true

section Answered

variable {s t u : State} {r : Word}

theorem answered_at_once (s : State) (r : Word) (hu : u.trace = s.trace) : Answered s (respond r u) r :=
  ⟨u, [], rfl, hu.trans (List.append_nil _).symm, rfl⟩

theorem answered_raise (p : Params) (c : Condition) (s : State) : Answered s (raise p c s) 0#32 := by
  rw [raise, report_eq]
  exact ⟨_, _, rfl, rfl, notResp_diagEvents p _⟩

theorem answered_storeWhole (p : Params) (cls : DestClass) (src : SrcAddr) (dst len step : Half) (s : State) :
    Answered s (answerByBudget (storeWhole p cls src dst len step s))
      (acceptedResp (budgetAccepts (storeWhole p cls src dst len step s))) :=
  ⟨_, _, rfl, storeOne_trace .., notResp_storeEvents p s _⟩

theorem answered_storeBoth (p : Params) (cls : DestClass) (src : SrcAddr) (dst len step : Half) (s : State) :
    Answered s (answerByBudget (storeBoth p cls src dst len step s))
      (acceptedResp (budgetAccepts (storeBoth p cls src dst len step s))) := by
  refine ⟨_, storeEvents p s (highPart src dst len) ++
    storeEvents p (storeOne p cls (highPart src dst len) step s) (lowPart src dst), rfl, ?_, ?_⟩
  · rw [storeBoth, storeOne_trace, storeOne_trace, List.append_assoc]
  · rw [List.all_append, notResp_storeEvents, notResp_storeEvents]
    rfl

theorem acceptedResp_cases (b : Bool) : acceptedResp b = 0#32 ∨ acceptedResp b = 1#32 := by
  cases b
  · exact .inl rfl
  · exact .inr rfl

/-- A command that may wait and has ended. -/
theorem Reached.answered {i : Instr} {premise : Prop} (h : Reached (finish i) premise s t) (ht : t.held = none) :
    Answered s t 1#32 := by
  obtain ⟨evs, v, hevs, rfl⟩ := h.of_not_held ht
  refine ⟨_, evs, rfl, ?_, hevs⟩
  split <;> rfl

end Answered

/-- A command that ends has answered as R100 says. -/
theorem exec_answered {i : Instr} {s t : State} (hcmd : i.isCommand = true) (h : exec i s = .next t) (ht : t.held = none) :
    ∃ r, IsAnswer s r i ∧ Answered s t r := by
  cases i with
  | init | setcfg | clrq | qsize | qbytes | qovf =>
    cases h
    exact ⟨_, rfl, answered_at_once s _ rfl⟩
  | enq cls src dst len step =>
    rcases exec_enq_cases cls src dst len step s with ⟨c, hexec, hc⟩ | ⟨heven, -, -, hexec⟩ | ⟨heven, -, -, hexec⟩ <;>
      obtain rfl := Host.Outcome.next.inj (hexec.symm.trans h)
    · exact ⟨_, ⟨fun _ => .inl rfl, fun _ => rfl⟩, answered_raise _ c s⟩
    · refine ⟨_, ⟨fun _ => ?_, fun hodd => ?_⟩, answered_storeWhole _ cls src dst len step s⟩
      · exact acceptedResp_cases _
      · cases heven.symm.trans hodd
    · refine ⟨_, ⟨fun _ => ?_, fun hodd => ?_⟩, answered_storeBoth _ cls src dst len step s⟩
      · exact acceptedResp_cases _
      · cases heven.symm.trans hodd
  | flush | fill | copy => exact ⟨_, rfl, (exec_reached rfl h).answered ht⟩
  | xfer cls src dst len step =>
    cases heven : srcEven src with
    | true => exact ⟨1#32, (if_pos heven).symm, (exec_reached (i := .xfer cls src dst len step) heven h).answered ht⟩
    | false =>
      obtain rfl := Host.Outcome.next.inj ((exec_xfer_of_odd heven).symm.trans h)
      exact ⟨0#32, (if_neg (Bool.eq_false_iff.mp heven)).symm, answered_raise _ _ s⟩
  | swcopy trig src len step =>
    cases heven : srcEven src with
    | true =>
      obtain rfl := Host.Outcome.next.inj ((exec_swcopy_of_even heven).symm.trans h)
      exact ⟨1#32, (if_pos heven).symm, _, _, rfl, talked_trace .., notResp_copierEvents _ _ trig src len step⟩
    | false =>
      obtain rfl := Host.Outcome.next.inj ((exec_swcopy_of_odd heven).symm.trans h)
      exact ⟨0#32, (if_neg (Bool.eq_false_iff.mp heven)).symm, answered_raise _ _ s⟩
  | w1Length | w2MidStep | w3HiLo | w4Trigger | fillSuffix | copySuffix | fillData => cases hcmd

/-- Settles O42. -/
theorem everyCommandEndsByWritingResp : Obligations.EveryCommandEndsByWritingResp := by
  intro i s t hcmd _ hexec ht
  obtain ⟨r, -, u, evs, rfl, htrace, hevs⟩ := exec_answered hcmd hexec ht
  refine ⟨evs, by rw [respond_trace, htrace, List.append_assoc, respond_resp], ?_⟩
  rintro e he v rfl
  cases List.all_eq_true.mp hevs _ he

/-- Settles O43: the answer is the RESP it leaves. -/
theorem respValuesPerCommand : Obligations.RespValuesPerCommand := by
  intro i s t hcmd _ hexec ht
  obtain ⟨r, hr, u, evs, rfl, -, -⟩ := exec_answered hcmd hexec ht
  cases i <;> exact hr

end Sys2Proof.Machine
end

section
/-!
PROOFS. What every instruction and every step makes of BTQC's registers, slots and source memory, said once (10_state.md section 6), and
the invariants every step keeps: those of the queue (R29) and the canonical forms of the model's lists (log 8, log 9).
-/

namespace Sys2Proof.Machine

open Sys2Proof BitVec

/-! ### What an instruction stores -/

/-- The registers, slots and source memory an instruction can leave, as those of a state got from `s` by the rules of its row. -/
inductive Stored (s : State) : Instr → State → Prop
  | same (i : Instr) : Stored s i s
  | cleared (i : Instr) (hi : i = .clrq ∨ i = .flush) : Stored s i (clearQueue s)
  | init (cap : Half) (budget : Word) :
      Stored s (.init cap budget) (clearQueue { s.forgetSlots with cap := cap, budget := budget })
  | setcfg (autoflush ignover : Bool) : Stored s (.setcfg autoflush ignover) { s with cfg := cfgOf autoflush ignover }
  | whole (cls : DestClass) (src : SrcAddr) (dst len step : Half) (heven : srcEven src = true)
      (hfits : len.toNat ≤ wordsToBoundary src) (hroom : s.qcount.toNat < s.cap.toNat) :
      Stored s (.enq cls src dst len step) (storeWhole Config.params cls src dst len step s)
  | both (cls : DestClass) (src : SrcAddr) (dst len step : Half) (heven : srcEven src = true)
      (hcross : wordsToBoundary src < len.toNat) (hroom : s.qcount.toNat + 2 ≤ s.cap.toNat) :
      Stored s (.enq cls src dst len step) (storeBoth Config.params cls src dst len step s)

theorem sameStores_respond (w : Word) (s : State) : SameStores s (respond w s) := rfl

theorem sameStores_raise (p : Params) (c : Condition) (s : State) : SameStores s (raise p c s) := by
  rw [raise_eq]
  rfl

theorem sameStores_withEnv (s : State) (v : Env) : SameStores s (s.withEnv v) := rfl

/-- A hold or the inputs replaced. -/
theorem sameStores_held (s : State) (h : Option Held) : SameStores s { s with held := h } := rfl

theorem sameStores_inputs (s : State) (inputs : List Input) : SameStores s { s with inputs := inputs } := rfl

/-- A command that may wait stores nothing, but that FLUSH clears the counters. -/
theorem Reached.stored {i : Instr} {premise : Prop} {s t : State} (h : Reached (finish i) premise s t) :
    ∃ u, Stored s i u ∧ SameStores u t := by
  cases h with
  | ended hevs hv =>
    by_cases hi : i = .flush
    · refine ⟨clearQueue s, .cleared i (.inr hi), ?_⟩
      rw [finish, if_pos hi]
      rfl
    · refine ⟨s, .same i, ?_⟩
      rw [finish, if_neg hi]
      rfl
  | waits h hv => exact ⟨s, .same i, rfl⟩
  | hangs hfree hv => exact ⟨s, .same i, rfl⟩

/-- What an instruction stores, whatever it is. -/
theorem exec_stored {i : Instr} {s t : State} (h : exec i s = .next t) : ∃ u, Stored s i u ∧ SameStores u t := by
  cases i with
  | init cap budget => cases h; exact ⟨_, .init cap budget, sameStores_respond ..⟩
  | setcfg autoflush ignover => cases h; exact ⟨_, .setcfg autoflush ignover, sameStores_respond ..⟩
  | clrq => cases h; exact ⟨_, .cleared _ (.inl rfl), sameStores_respond ..⟩
  | qsize | qbytes | qovf => cases h; exact ⟨_, .same _, sameStores_respond ..⟩
  | enq cls src dst len step =>
    rcases exec_enq_cases cls src dst len step s with ⟨c, hexec, -⟩ | ⟨heven, hfits, hroom, hexec⟩ |
      ⟨heven, hcross, hroom, hexec⟩ <;> obtain rfl := Host.Outcome.next.inj (hexec.symm.trans h)
    · exact ⟨s, .same _, sameStores_raise ..⟩
    · exact ⟨_, .whole cls src dst len step heven hfits hroom, sameStores_respond ..⟩
    · exact ⟨_, .both cls src dst len step heven hcross hroom, sameStores_respond ..⟩
  | flush | fill | copy => exact (exec_reached rfl h).stored
  | xfer cls src dst len step =>
    cases heven : srcEven src with
    | true => exact (exec_reached (i := .xfer cls src dst len step) heven h).stored
    | false =>
      obtain rfl := Host.Outcome.next.inj ((exec_xfer_of_odd heven).symm.trans h)
      exact ⟨s, .same _, sameStores_raise ..⟩
  | swcopy trig src len step =>
    cases heven : srcEven src with
    | true =>
      obtain rfl := Host.Outcome.next.inj ((exec_swcopy_of_even heven).symm.trans h)
      exact ⟨s, .same _, sameStores_respond_talked ..⟩
    | false =>
      obtain rfl := Host.Outcome.next.inj ((exec_swcopy_of_odd heven).symm.trans h)
      exact ⟨s, .same _, sameStores_raise ..⟩
  | w1Length | w2MidStep | w3HiLo | w4Trigger | fillSuffix | copySuffix | fillData => cases h; exact ⟨s, .same _, rfl⟩

theorem sameStores_transferLow (p : Params) (cls : DestClass) (low : Segment) (step : Half) (s : State) :
    SameStores s (transferLow p cls low step s) := by
  rcases (reached_transferLow (p := p) (premise := False) cls low step s).sameStores s fun _ _ => rfl with h | h <;> exact h

/-! ### Rules of the access table (10_state.md R40) -/

theorem sameSource_of_stored {s u : State} {i : Instr} (h : Stored s i u) : SameSource s u := by
  intro a
  cases h with
  | same | cleared | init | setcfg => rfl
  | whole cls src dst len step => rw [storeWhole, storeOne_srcMem]
  | both cls src dst len step => rw [storeBoth, storeOne_srcMem, storeOne_srcMem]

theorem exec_sameSource {i : Instr} {s t : State} (h : exec i s = .next t) : SameSource s t := by
  obtain ⟨u, hstored, hsame⟩ := exec_stored h
  exact fun a => (hsame.sameSource a).trans (sameSource_of_stored hstored a)

/-- Settles O44: instruction by instruction, and hold by hold. -/
theorem noCommandWritesSourceMemory : Obligations.NoCommandWritesSourceMemory := by
  rintro s t (⟨i, hexec⟩ | ⟨h, hresume⟩)
  · exact exec_sameSource hexec
  · cases h with
    | start i => exact exec_sameSource hresume
    | lowSegment cls low step =>
      cases hresume
      exact (sameStores_transferLow _ cls low step s).sameSource
    | inHalt =>
      cases hresume
      exact fun _ => rfl

/-- Settles O21: what is stored on top of a recorded index leaves it; only the clears take it away. -/
theorem overflowIndexStaysUntilCleared : Obligations.OverflowIndexStaysUntilCleared := by
  intro i s t hexec hrec
  obtain ⟨u, hstored, hsame⟩ := exec_stored hexec
  have hovf : t.ovfidx = u.ovfidx := hsame.sameQueue.2.1.2.1
  rw [hovf]
  have hkeep (p : Params) (cls : DestClass) (seg : Segment) (step : Half) (v : State) (hv : v.ovfidx = s.ovfidx) :
      (storeOne p cls seg step v).ovfidx = s.ovfidx := by
    rw [storeOne_ovfidx, if_neg fun h => hrec (hv ▸ ((crossesAfter_iff v seg).mp h).2), hv]
  cases hstored with
  | same | setcfg => exact .inl rfl
  | cleared _ hi => exact .inr ⟨rfl, hi.imp_right .inl⟩
  | init cap budget => exact .inr ⟨rfl, .inr (.inr ⟨cap, budget, rfl⟩)⟩
  | whole cls src dst len step => exact .inl (hkeep _ cls _ step s rfl)
  | both cls src dst len step => exact .inl (hkeep _ cls _ step _ (hkeep _ cls _ step s rfl))

/-- Settles O41: the columns of the table, from what is stored; RESP from the port words, which answer nothing. -/
theorem onlyTheListedCommandsWriteEachRegister : Obligations.OnlyTheListedCommandsWriteEachRegister := by
  intro i s t hexec
  have hresp : t.resp = s.resp ∨ i.isCommand = true := by
    cases i with
    | w1Length | w2MidStep | w3HiLo | w4Trigger | fillSuffix | copySuffix | fillData => cases hexec; exact .inl rfl
    | _ => exact .inr rfl
  obtain ⟨u, hstored, hsame⟩ := exec_stored hexec
  obtain ⟨⟨hcap, hbudget, hcfg⟩, ⟨hqcount, hovfidx, hqbytes⟩, hslots⟩ := hsame.sameQueue
  simp only [SameCounters, SameSlots, hcap, hbudget, hcfg, hqcount, hovfidx, hqbytes, hresp]
  have hslots' (i : Nat) : t.slot i = u.slot i := hslots i (by simp)
  simp only [hslots']
  cases hstored with
  | same => simp
  | cleared _ hi => rcases hi with rfl | rfl <;> simp
  | init | setcfg => simp [State.slot]
  | whole => simp [storeWhole]
  | both => simp [storeBoth]

/-! ### What every step keeps -/

section StepKeeps

variable {P : State → Prop} (hsame : ∀ {s t}, SameStores s t → P s → P t)
  (hstored : ∀ {s i u}, Stored s i u → P s → P u)
  (hwrite : ∀ (s : State) (a : SrcAddr) (b : Byte), P s → P { s with srcMem := Memory.write s.srcMem a.toNat b })
  (hreset : ∀ s, P s → P (hardwareReset s))

include hsame hstored

theorem exec_keeps {i : Instr} {s t : State} (hs : P s) (h : exec i s = .next t) : P t := by
  obtain ⟨u, hu, ht⟩ := exec_stored h
  exact hsame ht (hstored hu hs)

theorem resumeHeld_keeps {h : Held} {s t : State} (hs : P s) (hresume : resumeHeld h s = .next t) : P t := by
  cases h with
  | start i => exact exec_keeps hsame hstored hs hresume
  | lowSegment cls low step =>
    cases hresume
    exact hsame (sameStores_transferLow _ cls low step s) hs
  | inHalt =>
    cases hresume
    exact hsame (sameStores_held s _) hs

theorem runFetched_keeps {f : Fetched} {s t : State} (hs : P s) (h : runFetched f s = .next t) : P t := by
  unfold runFetched at h
  split at h
  · exact exec_keeps hsame hstored hs h
  · cases h
  · cases h
    exact hsame (sameStores_raise ..) hs

include hwrite hreset

theorem act_keeps {a : Input} {s t : State} (hs : P s) (h : act a s = .next t) : P t := by
  cases a with
  | fetch f => exact runFetched_keeps hsame hstored hs h
  | engine | setStep | release | busRequest | consumePending =>
    cases h
    exact hsame (sameStores_withEnv s _) hs
  | srcWrite a b =>
    cases h
    exact hwrite s a b hs
  | reset =>
    cases h
    exact hreset s hs

/-- What every instruction, a source write and a reset keep, and what no hold, input, event, RESP or collaborator touches, every step
keeps. -/
theorem step_keeps {s t : State} (hs : P s) (h : step s = .next t) : P t := by
  unfold step at h
  split at h
  · next held _ =>
    unfold heldTurn at h
    split at h
    · exact resumeHeld_keeps hsame hstored (hsame (sameStores_held s none) hs) h
    · cases h
      exact hsame (sameStores_withEnv s _) hs
  · unfold idleTurn at h
    split at h
    · cases h
      exact hsame (sameStores_withEnv s _) hs
    · next a rest _ => exact act_keeps hsame hstored hwrite hreset (hsame (sameStores_inputs s rest) hs) h

end StepKeeps

/-! ### The queue invariants (R29) -/

/-- The bytes of the first slots depend on those slots only. -/
theorem queuedBytes_congr {s t : State} {n : Nat} (h : ∀ i < n, t.slot i = s.slot i) : queuedBytes t n = queuedBytes s n := by
  induction n with
  | zero => rfl
  | succ n ih => rw [queuedBytes, queuedBytes, ih fun i hi => h i (Nat.lt_succ_of_lt hi), h n (Nat.lt_succ_self n)]

/-- A slot holds at most 65535 words. -/
theorem queuedBytes_le (s : State) (n : Nat) : queuedBytes s n ≤ 131070 * n := by
  induction n with
  | zero => exact Nat.le_refl 0
  | succ n ih =>
    have := (unpackLen (s.slot n).w1).isLt
    rw [queuedBytes]
    omega

/-- R29 item 4 follows from item 1: 32768 slots of 65535 words do not reach 2^32 bytes. -/
theorem queuedBytes_lt_of_le_cap {s : State} (hcount : s.qcount.toNat ≤ s.cap.toNat) (hcap : s.cap.toNat ≤ 32768) :
    queuedBytes s s.qcount.toNat < 2 ^ 32 := by
  have := queuedBytes_le s s.qcount.toNat
  omega

/-- The invariants speak of the capacity, the three counters and the slots only. -/
theorem QueueInv.congr {s t : State} (hs : QueueInv s) (hcap : t.cap = s.cap) (hcounters : SameCounters s t)
    (hslot : ∀ i, t.slot i = s.slot i) : QueueInv t := by
  obtain ⟨hqcount, hovfidx, hqbytes⟩ := hcounters
  have hbytes : queuedBytes t t.qcount.toNat = queuedBytes s s.qcount.toNat := by
    rw [hqcount]
    exact queuedBytes_congr fun i _ => hslot i
  refine ⟨?_, ?_, ?_, ?_, ?_⟩
  · rw [hqcount, hcap]
    exact hs.count_le_cap
  · rw [hovfidx, hqcount]
    exact hs.ovfidx_lt_count
  · rw [hqbytes, hbytes]
    exact hs.bytes_eq_sum
  · rw [hcap, hbytes]
    exact hs.no_wrap
  · intro i hi
    rw [hslot]
    exact hs.occupied_fit i (hqcount ▸ hi)

theorem QueueInv.of_sameStores {s t : State} (h : SameStores s t) (hs : QueueInv s) : QueueInv t := by
  obtain ⟨⟨hcap, -, -⟩, hcounters, hslots⟩ := h.sameQueue
  exact hs.congr hcap hcounters fun i => hslots i (by simp)

/-- An empty queue has the invariants, whatever its slots hold. -/
theorem queueInv_of_empty {s : State} (hqcount : s.qcount = 0#16) (hovfidx : s.ovfidx = 0#16) (hqbytes : s.qbytes = 0#32) :
    QueueInv s := by
  refine ⟨?_, fun h => absurd hovfidx h, ?_, fun _ => ?_, ?_⟩
  · simp [hqcount]
  · simp [hqcount, hqbytes, queuedBytes]
  · simp [hqcount, queuedBytes]
  · simp [hqcount]

/-- Settles O50: after reset the queue is empty. -/
theorem queueInvariantsHoldAfterReset : Obligations.QueueInvariantsHoldAfterReset := queueInv_of_empty rfl rfl rfl

/-- The segment lies in its bank, at an even address (R33). -/
def Segment.InBank (seg : Segment) : Prop := seg.src.toNat % 2 = 0 ∧ seg.src.toNat % bankBytes + 2 * seg.len.toNat ≤ bankBytes

theorem fitsBank_packDesc {seg : Segment} (h : seg.InBank) (p : Params) (cls : DestClass) (step : Half) :
    FitsBank p (packDesc p cls seg.src seg.dst seg.len step) := by
  refine ⟨cls, seg.src, seg.dst, seg.len, step, rfl, ?_, h.2⟩
  rw [getLsbD, Nat.testBit_zero, h.1]
  rfl

/-- A store with a free slot, of a segment that lies in its bank, keeps the invariants (R153, R154). -/
theorem queueInv_storeOne {s : State} (hs : QueueInv s) (hroom : s.qcount.toNat < s.cap.toNat) {seg : Segment}
    (hseg : seg.InBank) (cls : DestClass) (step : Half) : QueueInv (storeOne Config.params cls seg step s) := by
  have hnext : (s.qcount + 1#16).toNat = s.qcount.toNat + 1 := by
    have := s.cap.isLt
    rw [toNat_add, toNat_ofNat]
    omega
  have hcount : (storeOne Config.params cls seg step s).qcount.toNat = s.qcount.toNat + 1 := by rw [storeOne_qcount, hnext]
  have hbytes : queuedBytes (storeOne Config.params cls seg step s) (s.qcount.toNat + 1) =
      queuedBytes s s.qcount.toNat + 2 * seg.len.toNat := by
    have hbelow : queuedBytes (storeOne Config.params cls seg step s) s.qcount.toNat = queuedBytes s s.qcount.toNat :=
      queuedBytes_congr fun i hi => by rw [storeOne_slot, if_neg (Nat.ne_of_lt hi)]
    rw [queuedBytes, hbelow, storeOne_slot, if_pos rfl, packDesc, unpackLen_packLen]
  have hle : (storeOne Config.params cls seg step s).qcount.toNat ≤ (storeOne Config.params cls seg step s).cap.toNat := by
    rw [hcount, storeOne_cap]
    exact hroom
  refine ⟨hle, ?_, ?_, queuedBytes_lt_of_le_cap hle, ?_⟩
  · intro hne
    rw [hcount, Nat.lt_succ_iff]
    by_cases hcross : crossesAfter s seg = true
    · rw [storeOne_ovfidx, if_pos hcross]
    · rw [storeOne_ovfidx, if_neg hcross] at hne ⊢
      exact Nat.le_of_lt (hs.ovfidx_lt_count hne)
  · rw [hcount, hbytes, storeOne_qbytes, bytesAfter_eq, hs.bytes_eq_sum]
    apply eq_of_toNat_eq
    simp only [toNat_add, toNat_mul, toNat_setWidth, toNat_ofNat]
    omega
  · intro i hi
    rw [hcount] at hi
    rw [storeOne_slot]
    split
    · exact fitsBank_packDesc hseg _ cls step
    · exact hs.occupied_fit i (by omega)

/-! ### The segments of a request lie in their banks (R121) -/

section InBank

variable {src : SrcAddr} (dst : Half) {len : Half}

theorem inBank_wholePart (heven : srcEven src = true) (hfits : len.toNat ≤ wordsToBoundary src) :
    (wholePart src dst len).InBank := by
  have hwords := two_mul_wordsToBoundary heven
  have hparity := (srcEven_iff src).mp heven
  have hlt := src.isLt
  rw [bytesToBoundary_eq] at hwords
  simp only [Segment.InBank, wholePart, toNat_setWidth, bankBytes]
  omega

theorem inBank_lowPart (heven : srcEven src = true) (hcross : wordsToBoundary src < len.toNat) : (lowPart src dst).InBank := by
  have hwords := two_mul_wordsToBoundary heven
  have hparity := (srcEven_iff src).mp heven
  have hlt := src.isLt
  rw [bytesToBoundary_eq] at hwords
  rw [Segment.InBank, lowPart_len_toNat hcross]
  simp only [lowPart, toNat_setWidth, bankBytes]
  omega

theorem inBank_highPart (heven : srcEven src = true) (hcross : wordsToBoundary src < len.toNat) :
    (highPart src dst len).InBank := by
  have hwords := two_mul_wordsToBoundary heven
  have hparity := (srcEven_iff src).mp heven
  have hlen := len.isLt
  rw [bytesToBoundary_eq] at hwords
  rw [Segment.InBank, highPart_len_toNat hcross, highPart_src_toNat, bytesToBoundary_eq]
  simp only [bankBytes]
  omega

end InBank

theorem queueInv_of_stored {s u : State} {i : Instr} (h : Stored s i u) (hs : QueueInv s) : QueueInv u := by
  cases h with
  | same => exact hs
  | cleared | init => exact queueInv_of_empty rfl rfl rfl
  | setcfg => exact hs.congr rfl ⟨rfl, rfl, rfl⟩ fun _ => rfl
  | whole cls src dst len step heven hfits hroom => exact queueInv_storeOne hs hroom (inBank_wholePart dst heven hfits) cls step
  | both cls src dst len step heven hcross hroom =>
    refine queueInv_storeOne (queueInv_storeOne hs (by omega) (inBank_highPart dst heven hcross) cls step) ?_
      (inBank_lowPart dst heven hcross) cls step
    have hcap := s.cap.isLt
    rw [storeOne_qcount, storeOne_cap, toNat_add, toNat_ofNat]
    omega

/-- Settles O49: a step stores at most what an instruction stores, and a reset empties the queue. -/
theorem everyStepKeepsTheQueueInvariants : Obligations.EveryStepKeepsTheQueueInvariants :=
  fun _ _ hs h => step_keeps QueueInv.of_sameStores queueInv_of_stored
    (fun _ _ _ hs => hs.congr rfl ⟨rfl, rfl, rfl⟩ fun _ => rfl)
    (fun _ _ => queueInv_of_empty rfl rfl rfl) hs h

/-! ### The canonical forms (log 8, log 9) -/

theorem CanonicalForms.of_sameStores {s t : State} (h : SameStores s t) (hs : CanonicalForms s) : CanonicalForms t := by
  rw [h]
  exact hs

theorem canonicalForms_storeOne {s : State} (hs : CanonicalForms s) (p : Params) (cls : DestClass) (seg : Segment) (step : Half) :
    CanonicalForms (storeOne p cls seg step s) := by
  obtain ⟨hmem, hslots⟩ := hs
  rw [CanonicalForms, storeOne_srcMem, storeOne_slots]
  exact ⟨hmem, risingFrom_mono (slots_write_rising hslots) (Nat.zero_le _)⟩

theorem canonicalForms_of_stored {s u : State} {i : Instr} (h : Stored s i u) (hs : CanonicalForms s) : CanonicalForms u := by
  cases h with
  | same | cleared | setcfg => exact hs
  | init => exact ⟨hs.1, rfl⟩
  | whole => exact canonicalForms_storeOne hs ..
  | both => exact canonicalForms_storeOne (canonicalForms_storeOne hs ..) ..

/-- Settles O51: what is stored and what is written keeps its list in order; INIT and reset leave no slot in the list. -/
theorem everyStepKeepsTheCanonicalForms : Obligations.EveryStepKeepsTheCanonicalForms :=
  fun _ _ hs h => step_keeps CanonicalForms.of_sameStores canonicalForms_of_stored
    (fun _ a _ hs => ⟨memory_write_wf hs.1 a.isLt, hs.2⟩) (fun _ hs => ⟨hs.1, rfl⟩) hs h

/-- Settles O52. -/
theorem canonicalFormsHoldAfterReset : Obligations.CanonicalFormsHoldAfterReset := ⟨reset_memory_wf, rfl⟩

end Sys2Proof.Machine
end

section
/-!
PROOFS. Steps between commands, the Halt, and steps with a command held (10_state.md R38, 20_memory.md R58 and R62, 60_exceptions.md
R243).
-/

namespace Sys2Proof.Machine

open Sys2Proof

/-! ### Steps between commands -/

/-- With no command held a step is the next input's act. -/
theorem step_of_not_held {s : State} {a : Input} {rest : List Input} (hheld : s.held = none) (hin : s.inputs = a :: rest) :
    step s = act a { s with inputs := rest } := by
  simp only [step, hheld, idleTurn, hin]

/-- Settles O47. -/
theorem hardwareResetTouchesNoCollaborator : Obligations.HardwareResetTouchesNoCollaborator :=
  fun _ _ hheld hin => ⟨_, step_of_not_held hheld hin, rfl, rfl, rfl, rfl, rfl, rfl, rfl, rfl, rfl, fun _ => rfl, rfl, rfl⟩

/-- Settles O48: the acts that are no source write change collaborators only. -/
theorem outsideAgentsCannotTouchTheQueue : Obligations.OutsideAgentsCannotTouchTheQueue := by
  intro s a rest hheld hin hwf hfetch hreset
  have hqueue (v : Env) (m : Memory) : SameQueue s { s with inputs := rest, env := v, srcMem := m } :=
    ⟨⟨rfl, rfl, rfl⟩, ⟨rfl, rfl, rfl⟩, fun _ _ => rfl⟩
  rw [step_of_not_held hheld hin]
  cases a with
  | fetch f => exact absurd rfl (hfetch f)
  | reset => exact absurd rfl hreset
  | srcWrite adr b =>
    have hrising : risingFrom 0 s.srcMem = true := (Bool.and_eq_true_iff.mp hwf).1
    refine ⟨_, rfl, hqueue _ _, rfl, rfl, hheld, rfl, ?_, fun h => absurd rfl (h adr b)⟩
    rintro _ _ ⟨⟩
    exact ⟨memory_read_write_same b hrising, fun k hk => memory_read_write_other s.srcMem b hk⟩
  | engine | setStep | release | busRequest | consumePending =>
    exact ⟨_, rfl, hqueue _ _, rfl, rfl, hheld, rfl, fun _ _ h => (by cases h), fun _ _ => rfl⟩

/-! ### The Halt -/

/-- An idle engine stays idle on its own. -/
theorem turnsOf_idle (n : Nat) : turnsOf n .idle = .idle := by
  induction n with
  | zero => rfl
  | succ n ih => exact ih

/-- Settles O26: the bus taken already, released after some turns, and never released. -/
theorem haltReturnsOnceTheBusIsReleased : Obligations.HaltReturnsOnceTheBusIsReleased := by
  refine fun s after => ⟨fun htaken => ?_, fun n rest hfree hrel => ⟨turnsOf n s.env.engine, ?_, ?_⟩, fun rest hfree hrel => ?_⟩
  · have hret : HaltsReturn s.env 1 := (haltsReturn_one _).mpr (.inl htaken)
    rw [haltCoprocessor_of_returns s after hret, halted_of_taken htaken]
    rfl
  · intro hidle
    rw [hidle, turnsOf_idle]
  · have hnext : s.env.nextRelease = .after n := by rw [Env.nextRelease, hrel, List.headD_cons]
    have hret : HaltsReturn s.env 1 := (haltsReturn_one _).mpr (.inr (by simp [hnext]))
    rw [haltCoprocessor_of_returns s after hret, State.talked, Env.halted, Env.engineAfterHalt]
    simp [hfree, hnext, hrel]
  · have hnext : s.env.nextRelease = .never := by rw [Env.nextRelease, hrel, List.headD_cons]
    have hhung : ¬HaltsReturn s.env 1 := by simp [haltsReturn_one, hfree, hnext]
    rw [haltCoprocessor_of_never s after hhung, State.hungInHalt, State.talked, Env.told, hrel, List.tail_cons]

/-! ### Steps with a command held -/

/-- A run takes a step and goes on from there. -/
theorem run_succ {M : Host.Core} {s t : M.State} (h : M.step s = .next t) (n : Nat) : M.run (n + 1) s = M.run n t := by
  simp only [Host.Core.run, h]

/-- Once the engine is idle a step goes on with what is held (R58). -/
theorem step_of_held_of_idle {s : State} {h : Held} (hheld : s.held = some h) (hidle : s.env.engine = .idle) :
    step s = resumeHeld h { s with held := none } := by
  simp only [step, hheld, heldTurn, if_pos hidle]

/-- Settles O30. -/
theorem heldCommandRunsOnceTheEngineIsIdle : Obligations.HeldCommandRunsOnceTheEngineIsIdle :=
  fun _ _ hheld hidle => step_of_held_of_idle hheld hidle

/-- A step with a command in a Halt that never returns moves at most the engine (U13). -/
theorem step_of_inHalt {s : State} (hheld : s.held = some .inHalt) :
    ∃ e : Engine, step s = .next (s.withEnv { s.env with engine := e }) := by
  by_cases hidle : s.env.engine = .idle
  · refine ⟨s.env.engine, (step_of_held_of_idle hheld hidle).trans ?_⟩
    rw [resumeHeld, ← hheld]
    rfl
  · exact ⟨_, step_of_held_of_busy hheld hidle⟩

/-- Settles O27, step by step. -/
theorem neverReturningHaltHangsTheCommand : Obligations.NeverReturningHaltHangsTheCommand := by
  intro s n hheld
  induction n generalizing s with
  | zero => exact ⟨s.env.engine, rfl⟩
  | succ n ih =>
    obtain ⟨e, hstep⟩ := step_of_inHalt hheld
    obtain ⟨e', hrun⟩ := ih (s.withEnv { s.env with engine := e }) hheld
    exact ⟨e', (run_succ (M := Sys2Proof.core) hstep n).trans hrun⟩

/-- While a command is held a busy engine's turns run out, and nothing else changes. -/
theorem run_of_held_of_busy {s : State} {h : Held} {n : Nat} (hheld : s.held = some h) (hbusy : s.env.engine = .busy n) :
    Host.Core.run Sys2Proof.core (n + 1) s = .next (s.withEnv { s.env with engine := .idle }) := by
  induction n generalizing s with
  | zero =>
    have hturn : step s = .next (s.withEnv { s.env with engine := .idle }) := by
      rw [step_of_held_of_busy hheld (by simp [hbusy]), engineTurn, hbusy]
      rfl
    exact run_succ (M := Sys2Proof.core) hturn 0
  | succ n ih =>
    have hturn : step s = .next (s.withEnv { s.env with engine := .busy n }) := by
      rw [step_of_held_of_busy hheld (by simp [hbusy]), engineTurn, hbusy]
      rfl
    exact (run_succ (M := Sys2Proof.core) hturn _).trans (ih hheld rfl)

/-- Settles O29. -/
theorem busyEngineLetsTheCommandGoOn : Obligations.BusyEngineLetsTheCommandGoOn :=
  fun _ _ _ hheld hbusy => ⟨run_of_held_of_busy hheld hbusy, step_of_held_of_idle hheld rfl⟩

end Sys2Proof.Machine
end
